-- ==== Sys2Proof/Word.lean ====
section
/-! DEFINITION. The engine's word types (00_scope.md R7, R10): 32-bit words, bytes, and the group of eight words
that the HashState V, the working registers WK, ROOT and every 32-byte digest are made of. -/

namespace Sys2Proof

/-- A 32-bit word. Its `+` is addition modulo 2^32 (R10). -/
abbrev Word := BitVec 32

/-- One byte of MEM or of a byte sequence (20_memory.md R100). -/
abbrev Byte := BitVec 8

/-- Eight 32-bit words, named as 43_compression.md R310 names the working state: V[0] is `a`, V[7] is `h`
(10_state.md R65, R66, R67). Also the 256 bits of a digest, as its big-endian words (44_digest_facade.md R351). -/
structure Words8 where
  (a b c d e f g h : Word)
  deriving DecidableEq, Repr, Inhabited

end Sys2Proof
end

