-- ==== Sys2Proof/Syntax.lean ====
section
/-! DEFINITION. The 21 commands of spec/opcode_table.json (30_encoding.md R152), the registers of the MMIO window
(10_state.md R71), and what a host can do to the engine (00_scope.md R15, 20_memory.md R101, 70_reset_and_hazards.md R600). -/

namespace Sys2Proof

/-- A command of the engine. No command word holds an operand (30_encoding.md R153), so only PAD, whose FLAGS[0] is a
modifier, has an argument. -/
inductive Instr where
  | init                -- 0x01, 44_digest_facade.md R353
  | ldst                -- 0x02, R354
  | stst                -- 0x03, R355
  | hexst               -- 0x04, R356
  | pad (l : Bool)      -- 0x10, 41_padding.md R255; `l` is FLAGS[0]: false is PAD, true is PAD.L
  | padt                -- 0x11, R256
  | expd                -- 0x12, 42_schedule.md R287
  | blkb                -- 0x13, 43_compression.md R315
  | rstep               -- 0x14, R316
  | blke                -- 0x15, R317
  | cmpr                -- 0x16, R318
  | hash                -- 0x20, 44_digest_facade.md R357
  | hashx               -- 0x21, R358
  | staf                -- 0x22, R359
  | mkclr               -- 0x30, 45_merkle.md R410
  | mkleaf              -- 0x31, R411
  | mkbld               -- 0x32, R412
  | mkprv               -- 0x33, R413
  | mkprh               -- 0x34, R414
  | mkvfy               -- 0x35, R420
  | lefg                -- 0x40, 46_length_extension.md R452
  deriving DecidableEq, Repr

/-- A register of the MMIO window, by name (10_state.md R71). `reserved` stands for every reserved offset. -/
inductive Reg where
  | id | cmd | status | config | src | len | dst | ptr2 | auxLo | auxHi
  | resultLo | resultHi | rnd | leafcnt | depth
  | v (i : Fin 8) | wk (i : Fin 8) | root (i : Fin 8)
  | w (j : Fin 68) | w1 (j : Fin 64)
  | reserved
  deriving DecidableEq, Repr

/-- One host step: an MMIO access of a bit width at a byte offset in the window (R72), an access to one byte of MEM
(20_memory.md R102), or an assertion of reset (70_reset_and_hazards.md R600). -/
inductive HostOp where
  | mmioRead  (width offset : Nat)
  | mmioWrite (width offset : Nat) (value : Word)
  | memRead   (addr : Nat)
  | memWrite  (addr : Nat) (value : Byte)
  | reset
  deriving DecidableEq, Repr

/-- What a host read returned. -/
inductive HostRead where
  | reg (offset : Nat) (value : Word)
  | mem (addr : Nat) (value : Byte)
  deriving DecidableEq, Repr

end Sys2Proof
end

