-- ==== Sys2Proof/WellFormed.lean ====
section
/-! DEFINITION. The checks of 30_encoding.md R151 on a command word, field by field and apart from the decoder, and the
well-formedness of an instruction term. -/

namespace Sys2Proof

/-- The opcodes R152 lists. -/
def listedOpcodes : List Nat :=
  [0x01, 0x02, 0x03, 0x04, 0x10, 0x11, 0x12, 0x13, 0x14, 0x15, 0x16,
   0x20, 0x21, 0x22, 0x30, 0x31, 0x32, 0x33, 0x34, 0x35, 0x40]

/-- R151 (a): c[7:0] is a listed opcode. -/
def opcodeListed (c : Word) : Bool := listedOpcodes.contains (c.toNat % 256)

/-- R151 (b): c[31:16] = 0. -/
def rsvZero (c : Word) : Bool := c.toNat / 2 ^ 16 == 0

/-- R151 (c): c[15:8] = 0, except for PAD, where c[15:9] = 0 and c[8] is free. -/
def flagsDefined (c : Word) : Bool :=
  if c.toNat % 256 = 0x10 then c.toNat / 2 ^ 9 % 2 ^ 7 == 0 else c.toNat / 2 ^ 8 % 2 ^ 8 == 0

/-- A valid command word (R151). -/
def validWord (c : Word) : Bool := opcodeListed c && rsvZero c && flagsDefined c

/-- Every instruction term is well formed: a command word holds no operand (R153), and PAD's L may be 0 or 1 (R150). -/
def Instr.wellFormed : Instr → Bool
  | .init => true | .ldst => true | .stst => true | .hexst => true | .pad _ => true | .padt => true | .expd => true
  | .blkb => true | .rstep => true | .blke => true | .cmpr => true | .hash => true | .hashx => true | .staf => true
  | .mkclr => true | .mkleaf => true | .mkbld => true | .mkprv => true | .mkprh => true | .mkvfy => true | .lefg => true

end Sys2Proof
end

