-- ==== Sys2Proof/Decode.lean ====
section
/-! DEFINITION. The command decoder of 30_encoding.md R151, total on every 32-bit word and rejecting by name, and the
encoder written from the opcode map of R152. -/

namespace Sys2Proof

/-- Why a word is not a command. Each one ends the command with ILLEGAL_CMD (R151, R155). -/
inductive DecodeError where
  | rsvNonzero       -- c[31:16] is not 0
  | reservedOpcode   -- c[7:0] is not in the opcode map
  | flagsNonzero     -- a FLAGS bit not defined for the opcode is set
  deriving DecidableEq, Repr

/-- The field OPC of a command word (R150). -/
def opcField (c : Word) : BitVec 8 := c.extractLsb' 0 8

/-- The field FLAGS of a command word (R150). -/
def flagsField (c : Word) : BitVec 8 := c.extractLsb' 8 8

/-- The field RSV of a command word (R150). -/
def rsvField (c : Word) : BitVec 16 := c.extractLsb' 16 16

/-- A command that defines no FLAGS bit (R151, last two lines of the decoder). -/
def plainCommand (flags : BitVec 8) (i : Instr) : Except DecodeError Instr :=
  if flags = 0 then .ok i else .error .flagsNonzero

/-- PAD, whose FLAGS[0] is L (R150, R255). -/
def padCommand (flags : BitVec 8) : Except DecodeError Instr :=
  if flags.extractLsb' 1 7 = 0 then .ok (.pad (flags.getLsbD 0)) else .error .flagsNonzero

/-- The opcode map (R152). -/
def decodeOpcode (op flags : BitVec 8) : Except DecodeError Instr :=
  match op.toNat with
  | 0x01 => plainCommand flags .init
  | 0x02 => plainCommand flags .ldst
  | 0x03 => plainCommand flags .stst
  | 0x04 => plainCommand flags .hexst
  | 0x10 => padCommand flags
  | 0x11 => plainCommand flags .padt
  | 0x12 => plainCommand flags .expd
  | 0x13 => plainCommand flags .blkb
  | 0x14 => plainCommand flags .rstep
  | 0x15 => plainCommand flags .blke
  | 0x16 => plainCommand flags .cmpr
  | 0x20 => plainCommand flags .hash
  | 0x21 => plainCommand flags .hashx
  | 0x22 => plainCommand flags .staf
  | 0x30 => plainCommand flags .mkclr
  | 0x31 => plainCommand flags .mkleaf
  | 0x32 => plainCommand flags .mkbld
  | 0x33 => plainCommand flags .mkprv
  | 0x34 => plainCommand flags .mkprh
  | 0x35 => plainCommand flags .mkvfy
  | 0x40 => plainCommand flags .lefg
  | _    => .error .reservedOpcode

/-- The decoder of R151: RSV first, then the opcode, then FLAGS. -/
def decode (c : Word) : Except DecodeError Instr :=
  if rsvField c = 0 then decodeOpcode (opcField c) (flagsField c) else .error .rsvNonzero

/-- OPC of each command (R152). -/
def opcodeOf : Instr → BitVec 8
  | .init => 0x01 | .ldst => 0x02 | .stst => 0x03 | .hexst => 0x04
  | .pad _ => 0x10 | .padt => 0x11 | .expd => 0x12 | .blkb => 0x13 | .rstep => 0x14 | .blke => 0x15 | .cmpr => 0x16
  | .hash => 0x20 | .hashx => 0x21 | .staf => 0x22
  | .mkclr => 0x30 | .mkleaf => 0x31 | .mkbld => 0x32 | .mkprv => 0x33 | .mkprh => 0x34 | .mkvfy => 0x35
  | .lefg => 0x40

/-- FLAGS of each command: 0, but for PAD's L in FLAGS[0] (R150). -/
def flagsOf : Instr → BitVec 8
  | .pad true => 0x01
  | .pad false => 0x00
  | .init => 0 | .ldst => 0 | .stst => 0 | .hexst => 0 | .padt => 0 | .expd => 0 | .blkb => 0 | .rstep => 0
  | .blke => 0 | .cmpr => 0 | .hash => 0 | .hashx => 0 | .staf => 0 | .mkclr => 0 | .mkleaf => 0 | .mkbld => 0
  | .mkprv => 0 | .mkprh => 0 | .mkvfy => 0 | .lefg => 0

/-- The command word: RSV = 0, FLAGS, OPC (R150). -/
def encode (i : Instr) : Word := (0 : BitVec 16) ++ flagsOf i ++ opcodeOf i

/-- The instruction of a table word of `nbits` bits. A command is one 32-bit write to CMD (R156), so the table's bit
numbering is the word's own; a value that does not fit in 32 bits is no command word. -/
def decodeTableWord (nbits w : Nat) : Option Instr :=
  if w % 2 ^ nbits < 2 ^ 32 then (decode (BitVec.ofNat 32 (w % 2 ^ nbits))).toOption else none

end Sys2Proof
end

