-- ==== Sys2Proof/Config.lean ====
section
/-! DEFINITION. What an implementation of the engine fixes (00_scope.md R7: the OPEN parameters) and the free values
of 93_implementation_defined.md U1, U2, U3. None of the opaque constants has a body: no proof can learn a value. -/

namespace Sys2Proof

/-- The OPEN parameters that a rule reads (00_scope.md R7): the size of MEM in bytes and the capacity of the
leaf store. They stand in State as plain data, so that a statement over every state is a statement over every value of
the parameters; no step changes them (assumption 2). -/
structure Params where
  memBytes  : Nat
  maxLeaves : Nat
  deriving DecidableEq, Repr

/-- The range R7 gives the parameters: 1 <= MEM_BYTES <= 2^32 and 1 <= MAX_LEAVES <= 2^32 - 1. -/
def Params.ok (p : Params) : Bool :=
  decide (1 ≤ p.memBytes ∧ p.memBytes ≤ 2 ^ 32 ∧ 1 ≤ p.maxLeaves ∧ p.maxLeaves ≤ 2 ^ 32 - 1)

/-- Unknown, and the only source of `memBytes`. -/
opaque Config.memBytesSeed : Nat

/-- Unknown, and the only source of `maxLeaves`. -/
opaque Config.maxLeavesSeed : Nat

/-- MEM_BYTES of this implementation: any value in [1, 2^32] (every one is the image of some seed). -/
def Config.memBytes : Nat := Config.memBytesSeed % 2 ^ 32 + 1

/-- MAX_LEAVES of this implementation: any value in [1, 2^32 - 1]. -/
def Config.maxLeaves : Nat := Config.maxLeavesSeed % (2 ^ 32 - 1) + 1

/-- The parameters of this implementation, as State.reset holds them. -/
def Config.params : Params := ⟨Config.memBytes, Config.maxLeaves⟩

/-- MMIO_BASE (10_state.md R71): the host address of the register window, the platform's choice. Only
Machine/HostAccess.lean reads it, to turn a host bus address into a window offset. -/
opaque Config.mmioBase : Nat

/-- U2: what a read of a MEM byte that nothing has written gives, for the draw of the given number. -/
opaque Config.freeByte : Nat → Byte

/-- U1: the word left in W, W1 or WK by a command that uses the datapath, for the draw of the given number. -/
opaque Config.freeWord : Nat → Word

/-- U3: the contents of a LEAF slot that nothing has written, by its index. -/
opaque Config.freeLeaf : Nat → Words8

end Sys2Proof
end

