-- ==== Sys2Proof/Machine/Rom.lean ====
section
/-! DEFINITION. The engine's ROM constants (00_scope.md R8, 40_primitives.md R210, 10_state.md R52): the initialization
vector, the round-constant table as the spec lists it, and the ID word. They are constants, not state (R50, R600). -/

namespace Sys2Proof.Machine

/-- The initialization vector (R8). -/
def iv : Words8 :=
  ⟨0x7380166F, 0x4914B2B9, 0x172442D7, 0xDA8A0600, 0xA96F30BC, 0x163138AA, 0xE38DEE4D, 0xB0FB0E4E⟩

/-- The value of the ID register (R52). -/
def idWord : Word := 0x534D3301

/-- TR[0..15] as R210 lists them. -/
def trRom0 : List Word :=
  [0x79CC4519, 0xF3988A32, 0xE7311465, 0xCE6228CB, 0x9CC45197, 0x3988A32F, 0x7311465E, 0xE6228CBC,
   0xCC451979, 0x988A32F3, 0x311465E7, 0x6228CBCE, 0xC451979C, 0x88A32F39, 0x11465E73, 0x228CBCE6]

/-- TR[16..31] as R210 lists them; TR[48..63] repeats them. -/
def trRom1 : List Word :=
  [0x9D8A7A87, 0x3B14F50F, 0x7629EA1E, 0xEC53D43C, 0xD8A7A879, 0xB14F50F3, 0x629EA1E7, 0xC53D43CE,
   0x8A7A879D, 0x14F50F3B, 0x29EA1E76, 0x53D43CEC, 0xA7A879D8, 0x4F50F3B1, 0x9EA1E762, 0x3D43CEC5]

/-- TR[32..47] as R210 lists them. -/
def trRom2 : List Word :=
  [0x7A879D8A, 0xF50F3B14, 0xEA1E7629, 0xD43CEC53, 0xA879D8A7, 0x50F3B14F, 0xA1E7629E, 0x43CEC53D,
   0x879D8A7A, 0x0F3B14F5, 0x1E7629EA, 0x3CEC53D4, 0x79D8A7A8, 0xF3B14F50, 0xE7629EA1, 0xCEC53D43]

/-- TR[48..63] as R210 lists them, written out apart from TR[16..31]. -/
def trRom3 : List Word :=
  [0x9D8A7A87, 0x3B14F50F, 0x7629EA1E, 0xEC53D43C, 0xD8A7A879, 0xB14F50F3, 0x629EA1E7, 0xC53D43CE,
   0x8A7A879D, 0x14F50F3B, 0x29EA1E76, 0x53D43CEC, 0xA7A879D8, 0x4F50F3B1, 0x9EA1E762, 0x3D43CEC5]

/-- The round-constant ROM (R210). -/
def trRom : List Word := trRom0 ++ trRom1 ++ trRom2 ++ trRom3

end Sys2Proof.Machine
end

