-- ==== Sys2Proof/Machine/State.lean ====
section
/-! DEFINITION. The engine's state as 10_state.md R50 lists it, as plain data, with its reset values
(70_reset_and_hazards.md R601), and the reasons a step can stop. -/

namespace Sys2Proof.Machine

/-- The completion codes of 60_exceptions.md R501, and no other: "Every value not listed is never written to CODE". Their
byte values are `codeByte` of Machine/Flags.lean. -/
inductive Code where
  | ok | illegalCmd | lengthOverflow | emptyInput | blockAlign | addrRange
  | notFound | duplicateLeaf | capacity | notBuilt | roundSeq | badProof
  deriving DecidableEq, Repr

/-- Why the model stops. An error of a command is no fault: it is an ordinary next state (60_exceptions.md R500). -/
inductive Fault where
  /-- Raised by a host read or write of a MEM byte at an address outside [0, MEM_BYTES): MEM has no such byte
  (20_memory.md R100). Safe: nothing can be proved about a host that does this. -/
  | hostMemRange
  deriving DecidableEq, Repr

/-- Why the model refuses a host step. -/
inductive Refusal where
  /-- Raised by an arm of `exec` that has no meaning yet; no arm of this model is one. Safe. -/
  | notModelled (mnemonic : String)
  /-- Raised by a host MMIO access that is not a 32-bit access at a multiple-of-4 offset: the interconnect answers it
  with a bus error, and "A model refuses such a host step" (10_state.md R72 (b), 60_exceptions.md R506). Safe. -/
  | mmioBusError
  /-- Raised by a host MMIO access at an offset outside the 4096-byte window (10_state.md R71): it does not reach the
  engine. Safe. -/
  | mmioOutsideWindow
  deriving DecidableEq, Repr

/-- MEM (20_memory.md R100): the bytes that have been written since power-on, by rising address. An address that is not
listed holds an unwritten byte, whose reads are free draws (R107); see `Memory.read` of Machine/Ops.lean. -/
abbrev Memory := List Host.Cell

/-- LEAF (10_state.md R70): the slots that have been written since reset, by rising index. -/
abbrev LeafStore := List (Nat × Words8)

/-- The state of the engine (10_state.md R50), and, after MEM, four fields of the model's own. -/
@[ext]
structure State where
  /-- V[0..7], the HashState (R65). -/
  v : Words8
  /-- WK[0..7], the working registers A to H (R66). -/
  wk : Words8
  /-- W[0..67], the expansion words (R68). -/
  w : Vector Word 68
  /-- W1[0..63], the mixing words (R69). -/
  w1 : Vector Word 64
  /-- RND, the round counter (R62). -/
  rnd : BitVec 7
  /-- CFACT: a round sequence is open (R70). -/
  cfact : Bool
  /-- CONFIG.STRAT (R55). -/
  strat : BitVec 2
  /-- SRC (R56). -/
  src : Word
  /-- LEN (R57). -/
  len : Word
  /-- DST (R58). -/
  dst : Word
  /-- PTR2 (R59). -/
  ptr2 : Word
  /-- AUX = AUX_HI || AUX_LO (R60). -/
  aux : BitVec 64
  /-- RESULT = RESULT_HI || RESULT_LO (R61). -/
  result : BitVec 64
  /-- STATUS.CODE (R54). -/
  code : Code
  /-- STATUS.ERR, sticky (R54). -/
  err : Bool
  /-- CMD, the last value the host wrote to it (R53). -/
  cmd : Word
  /-- LEAF[0..MAX_LEAVES-1] (R70). -/
  leaf : LeafStore
  /-- LEAFCNT (R63). -/
  leafCnt : Word
  /-- BUILT (R70). -/
  built : Bool
  /-- DEPTH (R64). -/
  depth : BitVec 6
  /-- ROOT[0..7] (R67). -/
  root : Words8
  /-- MEM (20_memory.md R100). -/
  mem : Memory
  /-- MODEL's own: the OPEN parameters MEM_BYTES and MAX_LEAVES (00_scope.md R7), fixed for a machine. -/
  params : Params
  /-- MODEL's own: how many free draws have been made (93_implementation_defined.md U1, U2). -/
  draws : Nat
  /-- MODEL's own: the host steps still to come, in the one total order of 20_memory.md R111, first one first. -/
  hostQueue : List HostOp
  /-- MODEL's own: what the host's reads have returned, latest first. -/
  hostReads : List HostRead
  deriving DecidableEq, Repr

/-- The engine right after power-on reset (70_reset_and_hazards.md R601): V = IV and every other register 0; no LEAF slot
and no MEM byte written. The parameters are those of this implementation, whatever they are. -/
def State.reset : State where
  v := iv
  wk := ⟨0, 0, 0, 0, 0, 0, 0, 0⟩
  w := Vector.replicate 68 0
  w1 := Vector.replicate 64 0
  rnd := 0
  cfact := false
  strat := 0
  src := 0
  len := 0
  dst := 0
  ptr2 := 0
  aux := 0
  result := 0
  code := .ok
  err := false
  cmd := 0
  leaf := []
  leafCnt := 0
  built := false
  depth := 0
  root := ⟨0, 0, 0, 0, 0, 0, 0, 0⟩
  mem := []
  params := Config.params
  draws := 0
  hostQueue := []
  hostReads := []

end Sys2Proof.Machine
end

