-- ==== Sys2Proof/Machine/Flags.lean ====
section
/-! DEFINITION. The STATUS register (10_state.md R54) and the code values of 60_exceptions.md R501. -/

namespace Sys2Proof.Machine

/-- The byte that STATUS.CODE holds for each completion code (60_exceptions.md R501). -/
def codeByte : Code → Byte
  | .ok => 0x00 | .illegalCmd => 0x01 | .lengthOverflow => 0x02 | .emptyInput => 0x03
  | .blockAlign => 0x04 | .addrRange => 0x05 | .notFound => 0x06 | .duplicateLeaf => 0x07
  | .capacity => 0x08 | .notBuilt => 0x09 | .roundSeq => 0x0A | .badProof => 0x0B

/-- STATUS as the host reads it (10_state.md R54): CODE in [7:0], ERR in [8], CFACT in [9], BUILT in [10], 0 above. -/
def State.statusWord (s : State) : Word :=
  (0 : BitVec 21) ++ BitVec.ofBool s.built ++ BitVec.ofBool s.cfact ++ BitVec.ofBool s.err ++ codeByte s.code

/-- A host write to STATUS (10_state.md R54): bit 8 = 1 clears ERR, every other bit is ignored. -/
def State.writeStatus (s : State) (x : Word) : State := { s with err := s.err && !x.getLsbD 8 }

end Sys2Proof.Machine
end

