-- ==== Sys2Proof/Machine/Store.lean ====
section
/-! DEFINITION. A sparse store: entries by rising key, each key at most once. MEM (20_memory.md R100) and LEAF (10_state.md
R70) are held as one. -/

namespace Sys2Proof.Machine

/-- Canonical form of a sparse store: keys strictly rising. -/
def storeWf {α : Type} (m : List (Nat × α)) : Bool := decide (m.Pairwise fun x y => x.1 < y.1)

/-- Set one entry of a store and keep the keys rising. -/
def storeSet {α : Type} : List (Nat × α) → Nat → α → List (Nat × α)
  | [], k, x => [(k, x)]
  | (k', x') :: m, k, x =>
    if k < k' then (k, x) :: (k', x') :: m
    else if k = k' then (k, x) :: m
    else (k', x') :: storeSet m k x

/-- The entry of a store at a key, if it has one. -/
def storeGet {α : Type} : List (Nat × α) → Nat → Option α
  | [], _ => none
  | (k', x) :: m, k => if k = k' then some x else storeGet m k

end Sys2Proof.Machine
end

