-- ==== Sys2Proof/Machine/Operands.lean ====
section
/-! DEFINITION. How a command reads its operand registers and its regions of MEM (30_encoding.md R154, 00_scope.md R12,
20_memory.md R105). There is no immediate, no scaling, no sign extension and no alignment rule. -/

namespace Sys2Proof.Machine

/-- SRC as an unsigned byte address. -/
def State.srcAddr (s : State) : Nat := s.src.toNat

/-- DST as an unsigned byte address. -/
def State.dstAddr (s : State) : Nat := s.dst.toNat

/-- PTR2 as an unsigned byte address. -/
def State.ptr2Addr (s : State) : Nat := s.ptr2.toNat

/-- LEN as an unsigned byte count in [0, 2^32). -/
def State.lenVal (s : State) : Nat := s.len.toNat

/-- AUX as the unsigned integer AUX_HI * 2^32 + AUX_LO. -/
def State.auxVal (s : State) : Nat := s.aux.toNat

/-- Region(a, n) (00_scope.md R12): empty, or inside MEM with no wrap-around. -/
def State.regionOk (s : State) (a n : Nat) : Bool := decide (n = 0 ∨ a + n ≤ s.params.memBytes)

/-- `check Region(a, n)` (R12), as an entry of a command's list of checks: whether it fails, and with which code. -/
def State.checkRegion (s : State) (a n : Nat) : Bool × Code := (!s.regionOk a n, .addrRange)

/-- LEAF[i] (10_state.md R70). A slot that nothing has written holds an unspecified digest; no command reads one while
the leaf-store invariant of Safety.lean holds. -/
def State.leafAt (s : State) (i : Nat) : Words8 :=
  match storeGet s.leaf i with
  | some d => d
  | none => Config.freeLeaf i

/-- LEAF[0..LEAFCNT), level 0 of the tree (45_merkle.md R400). -/
def State.leafList (s : State) : List Words8 := (List.range s.leafCnt.toNat).map s.leafAt

end Sys2Proof.Machine
end

