-- ==== Sys2Proof/Machine/Ops.lean ====
section
/-! DEFINITION. The named operations over the state that the commands share: MEM, MemRead
and MemWrite (00_scope.md R11), the free draws (93_implementation_defined.md U1, U2), and how a command ends (60_exceptions.md
R500, R503, R504). -/

namespace Sys2Proof.Machine

/-! ### MEM as a store of bytes -/

/-- The canonical form of MEM: addresses strictly rising. An unlisted address reads as an unwritten byte, which no
entry can be equal to. -/
def Memory.wf (m : Memory) : Bool := storeWf m

/-- The byte MEM holds at an address; `none` for a byte that nothing has written since power-on (20_memory.md R107). This
is the one definition of what an unlisted address reads as. -/
def Memory.read (m : Memory) (a : Nat) : Option Byte := storeGet m a

/-- Write the bytes at `a`, `a + 1`, ... (00_scope.md R11, MemWrite). -/
def Memory.write (m : Memory) (a : Nat) : List Byte → Memory
  | [] => m
  | b :: bs => Memory.write (storeSet m a b) (a + 1) bs

/-! ### Draws, MemRead and MemWrite -/

/-- Count `n` free draws as made. -/
def State.draw (s : State) (n : Nat) : State := { s with draws := s.draws + n }

/-- A read of one MEM byte, with draw number `k` if nothing has written the byte (20_memory.md R107). -/
def State.byteOr (s : State) (a k : Nat) : Byte :=
  match s.mem.read a with
  | some b => b
  | none => Config.freeByte k

/-- MemRead(a, n) (00_scope.md R11): the bytes MEM[a], ..., MEM[a+n-1]. Byte i takes draw `draws + i`; the reader counts
the draws with `State.draw n`. -/
def State.readBytes (s : State) (a n : Nat) : List Byte :=
  (List.range n).map fun i => s.byteOr (a + i) (s.draws + i)

/-- MemWrite(a, n, bytes) (00_scope.md R11). -/
def State.writeBytes (s : State) (a : Nat) (bs : List Byte) : State := { s with mem := s.mem.write a bs }

/-! ### Register writes -/

/-- V <- x. -/
def State.setV (s : State) (x : Words8) : State := { s with v := x }

/-- WK <- x. -/
def State.setWk (s : State) (x : Words8) : State := { s with wk := x }

/-- (W, W1) <- a schedule. -/
def State.setSchedule (s : State) (w : Vector Word 68) (w1 : Vector Word 64) : State := { s with w := w, w1 := w1 }

/-- RND <- n. -/
def State.setRnd (s : State) (n : BitVec 7) : State := { s with rnd := n }

/-- CFACT <- x. -/
def State.setCfact (s : State) (x : Bool) : State := { s with cfact := x }

/-- RESULT <- n (10_state.md R61). -/
def State.setResult (s : State) (n : Nat) : State := { s with result := BitVec.ofNat 64 n }

/-- BUILT, DEPTH and ROOT together (10_state.md R64, R67, R70). -/
def State.setTree (s : State) (built : Bool) (depth : BitVec 6) (root : Words8) : State :=
  { s with built := built, depth := depth, root := root }

/-- LEAFCNT <- n. -/
def State.setLeafCnt (s : State) (n : Word) : State := { s with leafCnt := n }

/-- LEAF[i] <- d. -/
def State.setLeaf (s : State) (i : Nat) (d : Words8) : State := { s with leaf := storeSet s.leaf i d }

/-- BUILT <- 0, with ROOT and DEPTH as they were (45_merkle.md R411). -/
def State.setStale (s : State) : State := { s with built := false }

/-- CFACT <- 0; RND <- 0 (43_compression.md R314, first part). -/
def State.abandon (s : State) : State := { s with cfact := false, rnd := 0 }

/-- The number of words that `State.scramble` draws: 68 of W, 64 of W1, 8 of WK. -/
def scrambleDraws : Nat := 140

/-- W, W1, WK <- unspecified (43_compression.md R314, second part): a fresh draw for each word. -/
def State.scramble (s : State) : State :=
  let f := fun i => Config.freeWord (s.draws + i)
  { s with
    w := Vector.ofFn fun j => f j.val
    w1 := Vector.ofFn fun j => f (68 + j.val)
    wk := ⟨f 132, f 133, f 134, f 135, f 136, f 137, f 138, f 139⟩
    draws := s.draws + scrambleDraws }

/-- What every command that runs the compression datapath leaves behind (43_compression.md R314). -/
def State.useDatapath (s : State) : State := s.abandon.scramble

/-! ### How a command ends -/

/-- Success (60_exceptions.md R500): CODE <- 0x00, ERR unchanged. -/
def State.succeed (s : State) : State := { s with code := .ok }

/-- raise Error(e) (60_exceptions.md R500, R503, R511): CODE <- e, ERR <- 1, nothing else. This is the engine's whole
"exception entry": no state is saved and control goes nowhere. -/
def State.raise (s : State) (e : Code) : State := { s with code := e, err := true }

/-- The code of the first check that fails (60_exceptions.md R502). -/
def firstError : List (Bool × Code) → Option Code
  | [] => none
  | (fails, e) :: cs => if fails then some e else firstError cs

/-- Run the checks in order; go on with `k` only when all pass. -/
def State.guarded (s : State) (checks : List (Bool × Code)) (k : State → State) : State :=
  match firstError checks with
  | some e => s.raise e
  | none => k s

/-- A command: every check first, on the state the CMD write found (60_exceptions.md R504), then the effect and success. -/
def State.perform (s : State) (checks : List (Bool × Code)) (effect : State → State) : State :=
  s.guarded checks fun s => (effect s).succeed

/-- The engine's reset input (70_reset_and_hazards.md R600): every register and every piece of hidden state takes its value
of R601; MEM does not change. The model's own fields go on: the parameters, the draw count, the host's steps and reads. -/
def State.resetEngine (s : State) : State :=
  { State.reset with
    mem := s.mem, params := s.params, draws := s.draws, hostQueue := s.hostQueue, hostReads := s.hostReads }

end Sys2Proof.Machine
end

