-- ==== Sys2Proof/Machine/Primitives.lean ====
section
/-! DEFINITION. The datapath's pure functions (40_primitives.md R200-R210): word packing, rotation, the permutations, the
boolean functions and the round constants. -/

namespace Sys2Proof.Machine

/-- be32 (R200): `b0` goes to bits [31:24], `b3` to bits [7:0]. -/
def be32 (b0 b1 b2 b3 : Byte) : Word := b0 ++ b1 ++ b2 ++ b3

/-- word(s, i) (R200): the big-endian word at bytes 4i to 4i+3 of a byte sequence. Every use is on a sequence that has
them; the 0 past the end is never read. -/
def wordAt (s : List Byte) (i : Nat) : Word :=
  be32 (s.getD (4 * i) 0) (s.getD (4 * i + 1) 0) (s.getD (4 * i + 2) 0) (s.getD (4 * i + 3) 0)

/-- unbe32 (R201): the bytes x[31:24], x[23:16], x[15:8], x[7:0]. -/
def unbe32 (x : Word) : List Byte :=
  [x.extractLsb' 24 8, x.extractLsb' 16 8, x.extractLsb' 8 8, x.extractLsb' 0 8]

/-- be64 (R202): byte k is floor(n / 2^(8(7-k))) mod 256. -/
def be64 (n : Nat) : List Byte := (List.range 8).map fun k => BitVec.ofNat 8 (n / 2 ^ (8 * (7 - k)))

/-- rotl (R203): circular left rotation by n mod 32; a multiple of 32 is the identity. -/
def rotl (x : Word) (n : Nat) : Word := x.rotateLeft n

/-- P0 (R204), used only for the new E of a round. -/
def p0 (x : Word) : Word := x ^^^ rotl x 9 ^^^ rotl x 17

/-- P1 (R205), used only in the schedule recurrence. -/
def p1 (x : Word) : Word := x ^^^ rotl x 15 ^^^ rotl x 23

/-- The round constant T(j) (R206). -/
def roundConstant (j : Nat) : Word := if j < 16 then 0x79CC4519 else 0x7A879D8A

/-- FF (R207). -/
def ff (x y z : Word) (j : Nat) : Word :=
  if j < 16 then x ^^^ y ^^^ z else (x &&& y) ||| (x &&& z) ||| (y &&& z)

/-- GG (R208). -/
def gg (x y z : Word) (j : Nat) : Word :=
  if j < 16 then x ^^^ y ^^^ z else (x &&& y) ||| (~~~x &&& z)

/-- TR[j] = rotl(T(j), j mod 32) (R210): what the ROM `trRom` holds. -/
def tr (j : Nat) : Word := rotl (roundConstant j) (j % 32)

end Sys2Proof.Machine

namespace Sys2Proof

/-- XOR of two groups of eight words, word by word: the feed-forward (43_compression.md R311). -/
def Words8.xor (x y : Words8) : Words8 :=
  ⟨x.a ^^^ y.a, x.b ^^^ y.b, x.c ^^^ y.c, x.d ^^^ y.d, x.e ^^^ y.e, x.f ^^^ y.f, x.g ^^^ y.g, x.h ^^^ y.h⟩

/-- Word i of a group of eight: V[0] pairs with A and V[7] with H (10_state.md R65). -/
def Words8.get (x : Words8) : Fin 8 → Word
  | 0 => x.a | 1 => x.b | 2 => x.c | 3 => x.d | 4 => x.e | 5 => x.f | 6 => x.g | 7 => x.h

end Sys2Proof
end

