-- ==== Sys2Proof/Machine/Schedule.lean ====
section
/-! DEFINITION. The message-schedule expander (42_schedule.md): Expand (R280), the mixing words (R281) and the command
EXPD (R287). CONFIG.STRAT is not read: every strategy gives these words (R286); the strategies themselves are in
Machine/Strategies.lean. -/

namespace Sys2Proof.Machine

/-- W[0..15] (R280): the big-endian words of the block. -/
def blockWords (b : List Byte) : List Word := (List.range 16).map (wordAt b)

/-- W[j] for j in [16, 67] (R280), from the words before it. -/
def nextWord (ws : List Word) (j : Nat) : Word :=
  p1 (ws.getD (j - 16) 0 ^^^ ws.getD (j - 9) 0 ^^^ rotl (ws.getD (j - 3) 0) 15)
    ^^^ rotl (ws.getD (j - 13) 0) 7 ^^^ ws.getD (j - 6) 0

/-- Append the next `n` words, in increasing j. -/
def growWords : Nat → List Word → List Word
  | 0, ws => ws
  | n + 1, ws => growWords n (ws ++ [nextWord ws ws.length])

/-- W[0..67] as a list (R280). -/
def expandWords (b : List Byte) : List Word := growWords 52 (blockWords b)

theorem growWords_length (n : Nat) : ∀ ws : List Word, (growWords n ws).length = ws.length + n := by
  induction n with
  | zero => intro ws; rfl
  | succ n ih => intro ws; simp only [growWords, ih, List.length_append, List.length_singleton]; omega

theorem expandWords_length (b : List Byte) : (expandWords b).length = 68 := by
  simp [expandWords, growWords_length, blockWords]

/-- Expand(B) (R280). -/
def expand (b : List Byte) : Vector Word 68 := ⟨(expandWords b).toArray, by simp [expandWords_length]⟩

/-- W1[j] = W[j] xor W[j+4] for j in [0, 63] (R281). -/
def mixing (w : Vector Word 68) : Vector Word 64 := Vector.ofFn fun j => w[j.val] ^^^ w[j.val + 4]

/-- The checks of EXPD (R287). -/
def expdChecks (s : State) : List (Bool × Code) := [s.checkRegion s.srcAddr 64]

/-- EXPD (R287). -/
def execExpd (s : State) : Host.Outcome State Fault Refusal :=
  .next (s.perform (expdChecks s) fun s =>
    let w := expand (s.readBytes s.srcAddr 64)
    ((s.draw 64).setSchedule w (mixing w)).abandon)

end Sys2Proof.Machine
end

