-- ==== Sys2Proof/Machine/Compression.lean ====
section
/-! DEFINITION. The 64-round compressor (43_compression.md): Round (R310), CF (R311), Fold (R312) and the commands BLKB (R315),
RSTEP (R316), BLKE (R317) and CMPR (R318). -/

namespace Sys2Proof.Machine

/-- Round(j, S, W, W1) (R310). Every new word is computed from the old ones: the updates are simultaneous. -/
def roundFn (j : Nat) (s : Words8) (w : Vector Word 68) (w1 : Vector Word 64) : Words8 :=
  let ss1 := rotl (rotl s.a 12 + s.e + tr j) 7
  let ss2 := ss1 ^^^ rotl s.a 12
  let tt1 := ff s.a s.b s.c j + s.d + ss2 + w1[j]!
  let tt2 := gg s.e s.f s.g j + s.h + ss1 + w[j]!
  ⟨tt1, s.a, rotl s.b 9, s.c, p0 tt2, s.e, rotl s.f 19, s.g⟩

/-- The state after rounds 0 to n-1. -/
def rounds (w : Vector Word 68) (w1 : Vector Word 64) (s : Words8) : Nat → Words8
  | 0 => s
  | n + 1 => roundFn n (rounds w w1 s n) w w1

/-- CF(V, B) (R311): 64 rounds, then the feed-forward XOR with the pre-block state. -/
def cf (v : Words8) (b : List Byte) : Words8 :=
  let w := expand b
  v.xor (rounds w (mixing w) v 64)

/-- Block k of a byte sequence. -/
def blockAt (x : List Byte) (k : Nat) : List Byte := (x.drop (64 * k)).take 64

/-- Fold(V, X) (R312): the blocks in increasing k. -/
def foldBlocks (v : Words8) (x : List Byte) : Words8 :=
  (List.range (x.length / 64)).foldl (fun v k => cf v (blockAt x k)) v

/-- The checks of BLKB (R315). -/
def blkbChecks (s : State) : List (Bool × Code) := [s.checkRegion s.srcAddr 64]

/-- BLKB (R315). -/
def execBlkb (s : State) : Host.Outcome State Fault Refusal :=
  .next (s.perform (blkbChecks s) fun s =>
    let w := expand (s.readBytes s.srcAddr 64)
    ((((s.draw 64).setSchedule w (mixing w)).setWk s.v).setRnd 0).setCfact true)

/-- The checks of RSTEP (R316). -/
def rstepChecks (s : State) : List (Bool × Code) := [(!s.cfact || decide (64 ≤ s.rnd.toNat), .roundSeq)]

/-- RSTEP (R316). -/
def execRstep (s : State) : Host.Outcome State Fault Refusal :=
  .next (s.perform (rstepChecks s) fun s =>
    (s.setWk (roundFn s.rnd.toNat s.wk s.w s.w1)).setRnd (s.rnd + 1))

/-- The checks of BLKE (R317). -/
def blkeChecks (s : State) : List (Bool × Code) := [(!s.cfact || decide (s.rnd.toNat ≠ 64), .roundSeq)]

/-- BLKE (R317). RND, WK, W and W1 keep their values. -/
def execBlke (s : State) : Host.Outcome State Fault Refusal :=
  .next (s.perform (blkeChecks s) fun s => (s.setV (s.v.xor s.wk)).setCfact false)

/-- The checks of CMPR, in order (R318). -/
def cmprChecks (s : State) : List (Bool × Code) :=
  [(decide (s.lenVal = 0), .emptyInput),
   (decide (s.lenVal % 64 ≠ 0), .blockAlign),
   s.checkRegion s.srcAddr s.lenVal]

/-- CMPR (R318). -/
def execCmpr (s : State) : Host.Outcome State Fault Refusal :=
  .next (s.perform (cmprChecks s) fun s =>
    let x := s.readBytes s.srcAddr s.lenVal
    (((s.draw s.lenVal).setV (foldBlocks s.v x)).setResult (s.lenVal / 64)).useDatapath)

end Sys2Proof.Machine
end

