-- ==== Sys2Proof/Machine/Padding.lean ====
section
/-! DEFINITION. The padding module (41_padding.md): the padding functions R250-R253 and the commands PAD (R255) and
PADT (R256). -/

namespace Sys2Proof.Machine

/-- P(n) = 64 * ceil((n + 9) / 64) (R250). -/
def padLen (n : Nat) : Nat := 64 * ((n + 9 + 63) / 64)

/-- z(n) = P(n) - n - 9 (R250): the number of zero bytes. -/
def padZeros (n : Nat) : Nat := padLen n - n - 9

/-- PadTail(L) (R252): 0x80, z(L) zero bytes, be64(8 L). -/
def padTail (l : Nat) : List Byte := (0x80 : Byte) :: (List.replicate (padZeros l) 0 ++ be64 (8 * l))

/-- Pad(M, lf) (R251): the zero count follows the bytes present, the length field follows `lf`. -/
def padWith (m : List Byte) (lf : Nat) : List Byte :=
  m ++ (0x80 : Byte) :: (List.replicate (padZeros m.length) 0 ++ be64 (8 * lf))

/-- pad(M) = Pad(M, len(M)) (R251). -/
def padMsg (m : List Byte) : List Byte := padWith m m.length

/-- R253: the length field of `lf` bytes does not fit in 64 bits. -/
def lengthOverflows (lf : Nat) : Bool := decide (2 ^ 64 ≤ 8 * lf)

/-- The length-field value of PAD (R255): AUX for PAD.L, LEN otherwise. -/
def State.padField (s : State) (l : Bool) : Nat := if l then s.auxVal else s.lenVal

/-- The checks of PAD, in order (R255). -/
def padChecks (l : Bool) (s : State) : List (Bool × Code) :=
  [(lengthOverflows (s.padField l), .lengthOverflow),
   s.checkRegion s.srcAddr s.lenVal,
   s.checkRegion s.dstAddr (padLen s.lenVal)]

/-- PAD and PAD.L (R255). -/
def execPad (l : Bool) (s : State) : Host.Outcome State Fault Refusal :=
  .next (s.perform (padChecks l s) fun s =>
    let m := s.readBytes s.srcAddr s.lenVal
    ((s.draw s.lenVal).writeBytes s.dstAddr (padWith m (s.padField l))).setResult (padLen s.lenVal))

/-- The checks of PADT, in order (R256). -/
def padtChecks (s : State) : List (Bool × Code) :=
  [(lengthOverflows s.auxVal, .lengthOverflow),
   s.checkRegion s.dstAddr (padLen s.auxVal - s.auxVal)]

/-- PADT (R256). It reads no MEM. -/
def execPadt (s : State) : Host.Outcome State Fault Refusal :=
  .next (s.perform (padtChecks s) fun s =>
    (s.writeBytes s.dstAddr (padTail s.auxVal)).setResult (padLen s.auxVal - s.auxVal))

end Sys2Proof.Machine
end

