-- ==== Sys2Proof/Machine/Facade.lean ====
section
/-! DEFINITION. The digest façade and serializer (44_digest_facade.md): StateAfter and SM3 (R350), Serialize (R351), Hex (R352)
and the commands INIT, LDST, STST, HEXST, HASH, HASHX and STAF (R353-R359). -/

namespace Sys2Proof.Machine

/-- Serialize(V) (R351): 32 bytes, each word big-endian. -/
def serialize (v : Words8) : List Byte :=
  unbe32 v.a ++ unbe32 v.b ++ unbe32 v.c ++ unbe32 v.d ++ unbe32 v.e ++ unbe32 v.f ++ unbe32 v.g ++ unbe32 v.h

/-- Unserialize(D) (R351). -/
def unserialize (d : List Byte) : Words8 :=
  ⟨wordAt d 0, wordAt d 1, wordAt d 2, wordAt d 3, wordAt d 4, wordAt d 5, wordAt d 6, wordAt d 7⟩

/-- The final HashState of a message: the first part of StateAfter(M) (R350). -/
def hashState (m : List Byte) : Words8 := foldBlocks iv (padMsg m)

/-- StateAfter(M) (R350). -/
def stateAfter (m : List Byte) : Words8 × Nat := (hashState m, padLen m.length)

/-- SM3(M) (R350). -/
def sm3 (m : List Byte) : List Byte := serialize (hashState m)

/-- hexdig (R352): '0' to '9' and 'A' to 'F' in ASCII. -/
def hexDigit (d : BitVec 4) : Byte :=
  if d.toNat ≤ 9 then BitVec.ofNat 8 (0x30 + d.toNat) else BitVec.ofNat 8 (0x41 + (d.toNat - 10))

/-- Hex(D) (R352): the high nibble's character, then the low nibble's, for each byte. -/
def hexBytes (d : List Byte) : List Byte :=
  d.flatMap fun b => [hexDigit (b.extractLsb' 4 4), hexDigit (b.extractLsb' 0 4)]

/-- INIT (R353). -/
def execInit (s : State) : Host.Outcome State Fault Refusal :=
  .next (s.perform [] fun s => (s.setV iv).abandon)

/-- The checks of LDST (R354). -/
def ldstChecks (s : State) : List (Bool × Code) := [s.checkRegion s.srcAddr 32]

/-- LDST (R354). -/
def execLdst (s : State) : Host.Outcome State Fault Refusal :=
  .next (s.perform (ldstChecks s) fun s =>
    ((s.draw 32).setV (unserialize (s.readBytes s.srcAddr 32))).abandon)

/-- The checks of STST (R355). -/
def ststChecks (s : State) : List (Bool × Code) := [s.checkRegion s.dstAddr 32]

/-- STST (R355). -/
def execStst (s : State) : Host.Outcome State Fault Refusal :=
  .next (s.perform (ststChecks s) fun s => s.writeBytes s.dstAddr (serialize s.v))

/-- The checks of HEXST (R356). -/
def hexstChecks (s : State) : List (Bool × Code) := [s.checkRegion s.dstAddr 64]

/-- HEXST (R356). -/
def execHexst (s : State) : Host.Outcome State Fault Refusal :=
  .next (s.perform (hexstChecks s) fun s => s.writeBytes s.dstAddr (hexBytes (serialize s.v)))

/-- What HASH and HASHX share (R357, R358): hash the message on a private state and write `ser` of its bytes at DST. -/
def State.hashTo (s : State) (ser : List Byte → List Byte) : State :=
  let m := s.readBytes s.srcAddr s.lenVal
  (((s.draw s.lenVal).writeBytes s.dstAddr (ser (sm3 m))).setResult (padLen s.lenVal)).useDatapath

/-- The checks of HASH, in order (R357). -/
def hashChecks (s : State) : List (Bool × Code) :=
  [s.checkRegion s.srcAddr s.lenVal, s.checkRegion s.dstAddr 32]

/-- HASH (R357). -/
def execHash (s : State) : Host.Outcome State Fault Refusal :=
  .next (s.perform (hashChecks s) fun s => s.hashTo fun d => d)

/-- The checks of HASHX, in order (R358). -/
def hashxChecks (s : State) : List (Bool × Code) :=
  [s.checkRegion s.srcAddr s.lenVal, s.checkRegion s.dstAddr 64]

/-- HASHX (R358). -/
def execHashx (s : State) : Host.Outcome State Fault Refusal :=
  .next (s.perform (hashxChecks s) fun s => s.hashTo hexBytes)

/-- The checks of STAF (R359). -/
def stafChecks (s : State) : List (Bool × Code) := [s.checkRegion s.srcAddr s.lenVal]

/-- STAF (R359). -/
def execStaf (s : State) : Host.Outcome State Fault Refusal :=
  .next (s.perform (stafChecks s) fun s =>
    let r := stateAfter (s.readBytes s.srcAddr s.lenVal)
    (((s.draw s.lenVal).setV r.1).setResult r.2).useDatapath)

end Sys2Proof.Machine
end

