-- ==== Sys2Proof/Machine/LengthExtension.lean ====
section
/-! DEFINITION. The length-extension resumption logic (46_length_extension.md): Forge (R450) and the command LEFG (R452). -/

namespace Sys2Proof.Machine

/-- T = P(L) + len(S) (R450): the byte length of the forged message. -/
def forgeLen (l n : Nat) : Nat := padLen l + n

/-- The HashState of Forge(D, L, S) (R450): resume from the published digest, over S padded for the length T. -/
def forgeState (d : List Byte) (l : Nat) (suffix : List Byte) : Words8 :=
  foldBlocks (unserialize d) (padWith suffix (forgeLen l suffix.length))

/-- Forge(D, L, S) (R450): the forged digest and T. -/
def forge (d : List Byte) (l : Nat) (suffix : List Byte) : List Byte × Nat :=
  (serialize (forgeState d l suffix), forgeLen l suffix.length)

/-- The checks of LEFG, in order (R452). -/
def lefgChecks (s : State) : List (Bool × Code) :=
  [(lengthOverflows (forgeLen s.auxVal s.lenVal), .lengthOverflow),
   s.checkRegion s.ptr2Addr 32,
   s.checkRegion s.srcAddr s.lenVal,
   s.checkRegion s.dstAddr 32]

/-- LEFG (R452), on a private copy of the state. The digest's bytes take draws 0 to 31, the suffix's the ones after. -/
def execLefg (s : State) : Host.Outcome State Fault Refusal :=
  .next (s.perform (lefgChecks s) fun s =>
    let f := forge (s.readBytes s.ptr2Addr 32) s.auxVal ((s.draw 32).readBytes s.srcAddr s.lenVal)
    (((s.draw (32 + s.lenVal)).writeBytes s.dstAddr f.1).setResult f.2).useDatapath)

end Sys2Proof.Machine
end

