-- ==== Sys2Proof/Machine/Merkle.lean ====
section
/-! DEFINITION. The Merkle-tree builder (45_merkle.md): Node (R402), Levels (R403), proofs (R404, R405), Verify (R406) and the
commands MKCLR, MKLEAF, MKBLD, MKPRV, MKPRH and MKVFY (R410-R420). A 32-byte hash is held as its eight big-endian words
(44_digest_facade.md R351). -/

namespace Sys2Proof.Machine

/-- Node(l, r) = SM3(l || r) (R402), with no domain separation (R401). -/
def nodeHash (l r : Words8) : Words8 := hashState (serialize l ++ serialize r)

/-- One level from the level below (R403): pairs left to right, an unpaired last node paired with itself. -/
def nextLevel : List Words8 → List Words8
  | [] => []
  | [x] => [nodeHash x x]
  | x :: y :: rest => nodeHash x y :: nextLevel rest

/-- The loop of Levels (R403), with fuel: stop at a level of at most one node. -/
def levelsFuel : Nat → List Words8 → List (List Words8)
  | 0, lv => [lv]
  | n + 1, lv => if lv.length ≤ 1 then [lv] else lv :: levelsFuel n (nextLevel lv)

/-- Levels(lv_0) = (lv_0, ..., lv_K) (R403). A level halves, so as many steps as there are leaves are enough. -/
def levels (leaves : List Words8) : List (List Words8) := levelsFuel leaves.length leaves

/-- The depth K of a tree (R403). -/
def treeDepth (leaves : List Words8) : Nat := (levels leaves).length - 1

/-- The root lv_K[0] (R403). A tree has at least one leaf (R412), so the last level is never empty. -/
def treeRoot (leaves : List Words8) : Words8 := (((levels leaves).getLast?.getD []).head?).getD default

/-- s_k of R404, for a level and the path node's position in it. Both are in range for a leaf of the tree. -/
def siblingAt (lv : List Words8) (p : Nat) : Words8 := lv.getD (p ^^^ 1) (lv.getD p default)

/-- (s_0, ..., s_{K-1}) of R404. -/
def proofSiblings (lvs : List (List Words8)) (depth i : Nat) : List Words8 :=
  (List.range depth).map fun k => siblingAt (lvs.getD k []) (i >>> k)

/-- A proof in MEM (R405): index, sibling count, siblings, all big-endian. -/
def proofBytes (i depth : Nat) (sibs : List Words8) : List Byte :=
  unbe32 (BitVec.ofNat 32 i) ++ unbe32 (BitVec.ofNat 32 depth) ++ sibs.flatMap serialize

/-- The size of a proof with K siblings (R405). -/
def proofSize (depth : Nat) : Nat := 8 + 32 * depth

/-- One step of R406's loop: bit k of the index says whether the path node is a right child. -/
def verifyStep (i : Nat) (sibs : List Words8) (cur : Words8) (k : Nat) : Words8 :=
  if i.testBit k then nodeHash (sibs.getD k default) cur else nodeHash cur (sibs.getD k default)

/-- Verify(h, i, K, s, R) (R406). -/
def verifyProof (h : Words8) (i depth : Nat) (sibs : List Words8) (root : Words8) : Bool :=
  if i >>> depth ≠ 0 then false else (List.range depth).foldl (verifyStep i sibs) h == root

/-- MKCLR (R410). LEAF's contents are not cleared. -/
def execMkclr (s : State) : Host.Outcome State Fault Refusal :=
  .next (s.perform [] fun s => (s.setLeafCnt 0).setTree false 0 ⟨0, 0, 0, 0, 0, 0, 0, 0⟩)

/-- The checks of MKLEAF, in order (R411). -/
def mkleafChecks (s : State) : List (Bool × Code) :=
  [(decide (s.leafCnt.toNat = s.params.maxLeaves), .capacity),
   s.checkRegion s.srcAddr s.lenVal]

/-- MKLEAF (R411). RESULT is the new LEAFCNT. -/
def execMkleaf (s : State) : Host.Outcome State Fault Refusal :=
  .next (s.perform (mkleafChecks s) fun s =>
    let d := hashState (s.readBytes s.srcAddr s.lenVal)
    let n := s.leafCnt + 1
    (((((s.draw s.lenVal).setLeaf s.leafCnt.toNat d).setLeafCnt n).setStale).setResult n.toNat).useDatapath)

/-- The checks of MKBLD, in order (R412). -/
def mkbldChecks (s : State) : List (Bool × Code) :=
  [(decide (s.leafCnt.toNat = 0), .emptyInput),
   s.checkRegion s.dstAddr 32]

/-- MKBLD (R412). -/
def execMkbld (s : State) : Host.Outcome State Fault Refusal :=
  .next (s.perform (mkbldChecks s) fun s =>
    let root := treeRoot s.leafList
    let k := treeDepth s.leafList
    (((s.writeBytes s.dstAddr (serialize root)).setTree true (BitVec.ofNat 6 k) root).setResult k).useDatapath)

/-- Write the proof of leaf `i` at DST and its size to RESULT (R413, shared with R414). K is DEPTH. -/
def State.writeProof (s : State) (i : Nat) : State :=
  let k := s.depth.toNat
  (s.writeBytes s.dstAddr (proofBytes i k (proofSiblings (levels s.leafList) k i))).setResult (proofSize k)

/-- The checks of MKPRV, in order (R413). -/
def mkprvChecks (s : State) : List (Bool × Code) :=
  [(!s.built, .notBuilt),
   s.checkRegion s.dstAddr (proofSize s.depth.toNat),
   (decide (s.leafCnt.toNat ≤ s.auxVal), .notFound)]

/-- MKPRV (R413). -/
def execMkprv (s : State) : Host.Outcome State Fault Refusal :=
  .next (s.perform (mkprvChecks s) fun s => s.writeProof s.auxVal)

/-- The checks of MKPRH that come before it reads MEM, in order (R414). -/
def mkprhChecks (s : State) : List (Bool × Code) :=
  [(!s.built, .notBuilt),
   s.checkRegion s.srcAddr 32,
   s.checkRegion s.dstAddr (proofSize s.depth.toNat)]

/-- The set I of R414: the indices of the leaves equal to `h`. -/
def State.leafMatches (s : State) (h : Words8) : List Nat :=
  (List.range s.leafCnt.toNat).filter fun i => s.leafAt i == h

/-- MKPRH (R414). Only leaves are searched. The 32 draws of the hash's bytes are counted whatever the outcome. -/
def execMkprh (s : State) : Host.Outcome State Fault Refusal :=
  .next (s.guarded (mkprhChecks s) fun s =>
    match s.leafMatches (unserialize (s.readBytes s.srcAddr 32)) with
    | [] => (s.draw 32).raise .notFound
    | [i] => ((s.draw 32).writeProof i).succeed
    | _ :: _ :: _ => (s.draw 32).raise .duplicateLeaf)

/-- The checks of MKVFY that come before it reads MEM, in order (R420). -/
def mkvfyChecks (s : State) : List (Bool × Code) :=
  [s.checkRegion s.srcAddr 32, s.checkRegion s.ptr2Addr 8, s.checkRegion s.dstAddr 32]

/-- The sibling count K of the proof header at PTR2 (R405, R420); its bytes take draws 36 to 39 of the command. -/
def State.headerDepth (s : State) : Nat := (wordAt ((s.draw 36).readBytes (s.ptr2Addr + 4) 4) 0).toNat

/-- The index field of the proof header at PTR2 (R405, R420); its bytes take draws 32 to 35 of the command. -/
def State.headerIndex (s : State) : Nat := (wordAt ((s.draw 32).readBytes s.ptr2Addr 4) 0).toNat

/-- The checks of MKVFY that depend on the header's K, in order (R420). -/
def mkvfyHeaderChecks (s : State) (k : Nat) : List (Bool × Code) :=
  [(decide (32 < k), .badProof), s.checkRegion (s.ptr2Addr + 8) (32 * k)]

/-- s_0 to s_{K-1} as MKVFY reads them after the proof header (R420); their bytes take the draws from 72 on. -/
def State.proofAt (s : State) (k : Nat) : List Words8 :=
  (List.range k).map fun j => unserialize ((s.draw (72 + 32 * j)).readBytes (s.ptr2Addr + 8 + 32 * j) 32)

/-- MKVFY (R420). It reads the leaf hash (draws 0 to 31), the header (32 to 39), the root (40 to 71) and the siblings
(from 72); the draws are counted whatever the outcome. -/
def execMkvfy (s : State) : Host.Outcome State Fault Refusal :=
  .next (s.guarded (mkvfyChecks s) fun s =>
    let h := unserialize (s.readBytes s.srcAddr 32)
    let r := unserialize ((s.draw 40).readBytes s.dstAddr 32)
    (s.draw 72).guarded (mkvfyHeaderChecks s s.headerDepth) fun t =>
      (((t.draw (32 * s.headerDepth)).setResult
        (if verifyProof h s.headerIndex s.headerDepth (s.proofAt s.headerDepth) r then 1 else 0)).useDatapath).succeed)

end Sys2Proof.Machine
end

