-- ==== Sys2Proof/Machine/Dispatch.lean ====
section
/-! DEFINITION. The meaning of each command: one arm per constructor of Instr, one direct call each. -/

namespace Sys2Proof.Machine

/-- What a command does when a CMD write starts it (60_exceptions.md R500). -/
def exec (i : Instr) (s : State) : Host.Outcome State Fault Refusal :=
  match i with
  | .init => Sys2Proof.Machine.execInit s
  | .ldst => Sys2Proof.Machine.execLdst s
  | .stst => Sys2Proof.Machine.execStst s
  | .hexst => Sys2Proof.Machine.execHexst s
  | .pad l => Sys2Proof.Machine.execPad l s
  | .padt => Sys2Proof.Machine.execPadt s
  | .expd => Sys2Proof.Machine.execExpd s
  | .blkb => Sys2Proof.Machine.execBlkb s
  | .rstep => Sys2Proof.Machine.execRstep s
  | .blke => Sys2Proof.Machine.execBlke s
  | .cmpr => Sys2Proof.Machine.execCmpr s
  | .hash => Sys2Proof.Machine.execHash s
  | .hashx => Sys2Proof.Machine.execHashx s
  | .staf => Sys2Proof.Machine.execStaf s
  | .mkclr => Sys2Proof.Machine.execMkclr s
  | .mkleaf => Sys2Proof.Machine.execMkleaf s
  | .mkbld => Sys2Proof.Machine.execMkbld s
  | .mkprv => Sys2Proof.Machine.execMkprv s
  | .mkprh => Sys2Proof.Machine.execMkprh s
  | .mkvfy => Sys2Proof.Machine.execMkvfy s
  | .lefg => Sys2Proof.Machine.execLefg s

end Sys2Proof.Machine
end

