-- ==== Sys2Proof/Machine/Registers.lean ====
section
/-! DEFINITION. The MMIO register window (10_state.md R71, R72): which register each offset names, what a read returns and what
a write stores. -/

namespace Sys2Proof

/-- The arrays of the window and its reserved offsets (R71). -/
def Reg.ofArrayOffset (off : Nat) : Reg :=
  if h : 0x040 ≤ off ∧ off < 0x060 then .v ⟨(off - 0x040) / 4, by omega⟩
  else if h : 0x060 ≤ off ∧ off < 0x080 then .wk ⟨(off - 0x060) / 4, by omega⟩
  else if h : 0x080 ≤ off ∧ off < 0x0A0 then .root ⟨(off - 0x080) / 4, by omega⟩
  else if h : 0x100 ≤ off ∧ off < 0x210 then .w ⟨(off - 0x100) / 4, by omega⟩
  else if h : 0x300 ≤ off ∧ off < 0x400 then .w1 ⟨(off - 0x300) / 4, by omega⟩
  else .reserved

/-- The register at a multiple-of-4 offset of the window (R71). -/
def Reg.ofOffset (off : Nat) : Reg :=
  match off with
  | 0x000 => .id
  | 0x004 => .cmd
  | 0x008 => .status
  | 0x00C => .config
  | 0x010 => .src
  | 0x014 => .len
  | 0x018 => .dst
  | 0x01C => .ptr2
  | 0x020 => .auxLo
  | 0x024 => .auxHi
  | 0x028 => .resultLo
  | 0x02C => .resultHi
  | 0x030 => .rnd
  | 0x034 => .leafcnt
  | 0x038 => .depth
  | off => Reg.ofArrayOffset off

/-- The offset of a named register (R71); 0x03C for `reserved`, which has many. -/
def Reg.offset : Reg → Nat
  | .id => 0x000 | .cmd => 0x004 | .status => 0x008 | .config => 0x00C | .src => 0x010 | .len => 0x014 | .dst => 0x018
  | .ptr2 => 0x01C | .auxLo => 0x020 | .auxHi => 0x024 | .resultLo => 0x028 | .resultHi => 0x02C | .rnd => 0x030
  | .leafcnt => 0x034 | .depth => 0x038 | .reserved => 0x03C
  | .v i => 0x040 + 4 * i.val
  | .wk i => 0x060 + 4 * i.val
  | .root i => 0x080 + 4 * i.val
  | .w j => 0x100 + 4 * j.val
  | .w1 j => 0x300 + 4 * j.val

end Sys2Proof

namespace Sys2Proof.Machine

/-- What an MMIO read of a register returns (R52-R72). A read changes no register (R72 (e)). -/
def State.readReg (s : State) : Reg → Word
  | .id => idWord
  | .cmd => s.cmd
  | .status => s.statusWord
  | .config => s.strat.zeroExtend 32
  | .src => s.src
  | .len => s.len
  | .dst => s.dst
  | .ptr2 => s.ptr2
  | .auxLo => s.aux.extractLsb' 0 32
  | .auxHi => s.aux.extractLsb' 32 32
  | .resultLo => s.result.extractLsb' 0 32
  | .resultHi => s.result.extractLsb' 32 32
  | .rnd => s.rnd.zeroExtend 32
  | .leafcnt => s.leafCnt
  | .depth => s.depth.zeroExtend 32
  | .v i => s.v.get i
  | .wk i => s.wk.get i
  | .root i => s.root.get i
  | .w j => s.w[j.val]
  | .w1 j => s.w1[j.val]
  | .reserved => 0

/-- AUX_LO <- x (R60). -/
def State.writeAuxLo (s : State) (x : Word) : State := { s with aux := s.aux.extractLsb' 32 32 ++ x }

/-- AUX_HI <- x (R60). -/
def State.writeAuxHi (s : State) (x : Word) : State := { s with aux := x ++ s.aux.extractLsb' 0 32 }

/-- What an MMIO write of a register stores (R53-R60, R72): writes to RO registers and reserved offsets are ignored. A
write to CMD stores the word here; running it is Machine/HostAccess.lean's. -/
def State.writeReg (s : State) (x : Word) : Reg → State
  | .cmd => { s with cmd := x }
  | .status => s.writeStatus x
  | .config => { s with strat := x.extractLsb' 0 2 }
  | .src => { s with src := x }
  | .len => { s with len := x }
  | .dst => { s with dst := x }
  | .ptr2 => { s with ptr2 := x }
  | .auxLo => s.writeAuxLo x
  | .auxHi => s.writeAuxHi x
  | .id => s
  | .resultLo => s
  | .resultHi => s
  | .rnd => s
  | .leafcnt => s
  | .depth => s
  | .v _ => s
  | .wk _ => s
  | .root _ => s
  | .w _ => s
  | .w1 _ => s
  | .reserved => s

end Sys2Proof.Machine
end

