-- ==== Sys2Proof/Machine/HostAccess.lean ====
section
/-! DEFINITION. What each host step does (00_scope.md R15): MMIO accesses (10_state.md R72), with the command that a CMD write
starts (R53); accesses to MEM bytes (20_memory.md R102); reset (70_reset_and_hazards.md R600). -/

namespace Sys2Proof.Machine

/-- Why an MMIO access is refused, if it is (10_state.md R71, R72 (a), (b)). -/
def mmioRefusal (width off : Nat) : Option Refusal :=
  if 4096 ≤ off then some .mmioOutsideWindow
  else if width ≠ 32 ∨ off % 4 ≠ 0 then some .mmioBusError
  else none

/-- Run the command that the word `c` encodes (10_state.md R53); an invalid word ends with ILLEGAL_CMD before any other
check (30_encoding.md R151). -/
def runCommand (c : Word) (s : State) : Host.Outcome State Fault Refusal :=
  match decode c with
  | .ok i => exec i s
  | .error _ => .next (s.raise .illegalCmd)

/-- An admitted MMIO write: a write to CMD stores the word and then runs it (10_state.md R53). -/
def mmioStore (off : Nat) (x : Word) (s : State) : Host.Outcome State Fault Refusal :=
  if Reg.ofOffset off = .cmd then runCommand x (s.writeReg x .cmd) else .next (s.writeReg x (Reg.ofOffset off))

/-- Record what a host read returned. -/
def State.logRead (s : State) (r : HostRead) : State := { s with hostReads := r :: s.hostReads }

/-- One host step. -/
def hostStep (op : HostOp) (s : State) : Host.Outcome State Fault Refusal :=
  match op with
  | .mmioRead width off =>
    match mmioRefusal width off with
    | some r => .refused r
    | none => .next (s.logRead (.reg off (s.readReg (Reg.ofOffset off))))
  | .mmioWrite width off x =>
    match mmioRefusal width off with
    | some r => .refused r
    | none => mmioStore off x s
  | .memRead a =>
    if a < s.params.memBytes then .next ((s.draw 1).logRead (.mem a (s.byteOr a s.draws))) else .fault .hostMemRange
  | .memWrite a b =>
    if a < s.params.memBytes then .next (s.writeBytes a [b]) else .fault .hostMemRange
  | .reset => .next s.resetEngine

/-- The window offset of a host bus address: the window is the 4096 bytes at MMIO_BASE (10_state.md R71). -/
def windowOffset (addr : Nat) : Option Nat :=
  if Config.mmioBase ≤ addr ∧ addr < Config.mmioBase + 4096 then some (addr - Config.mmioBase) else none

/-- A host bus read as a host step, when it reaches the window. -/
def busRead (width addr : Nat) : Option HostOp := (windowOffset addr).map (HostOp.mmioRead width)

/-- A host bus write as a host step, when it reaches the window. -/
def busWrite (width addr : Nat) (x : Word) : Option HostOp :=
  (windowOffset addr).map fun off => HostOp.mmioWrite width off x

end Sys2Proof.Machine
end

