-- ==== Sys2Proof/Machine/Step.lean ====
section
/-! DEFINITION. One step of the machine: the next host step in the total order of 20_memory.md R111. -/

namespace Sys2Proof.Machine

/-- The engine has no step of its own outside a CMD write (70_reset_and_hazards.md R610), so a step takes the host's next
one; with none to come the engine stays as it is. -/
def step (s : State) : Host.Outcome State Fault Refusal :=
  match s.hostQueue with
  | [] => .next s
  | op :: rest => hostStep op { s with hostQueue := rest }

/-- The machine fetches nothing (20_memory.md R114): a command comes from a host write to CMD. So the next command is placed
as the host's next step, a 32-bit write of the word at CMD's offset. -/
def State.withFetchWord (s : State) (nbits w : Nat) : State :=
  { s with hostQueue := .mmioWrite 32 0x004 (BitVec.ofNat 32 (w % 2 ^ nbits)) :: s.hostQueue }

end Sys2Proof.Machine
end

