-- ==== Sys2Proof/Machine/Strategies.lean ====
section
/-! DEFINITION. The four schedule strategies of 42_schedule.md R283-R285, as functions apart from `expand`. No command calls
them: R286 has the machine use one schedule function and ignore CONFIG.STRAT, and says the four are bit-identical, which is
an obligation about this file. -/

namespace Sys2Proof.Machine

/-- The mixing words of a list of expansion words (R281). -/
def mixWords (ws : List Word) : List Word := (List.range 64).map fun j => ws.getD j 0 ^^^ ws.getD (j + 4) 0

/-- Direct-array strategy (R283): the arrays of R280 and R281. -/
def directSchedule (b : List Byte) : List Word × List Word := (expandWords b, mixWords (expandWords b))

/-- W[j] from the sixteen slots (R284), each read at its index modulo 16. -/
def ringWord (slots : List Word) (j : Nat) : Word :=
  p1 (slots.getD ((j - 16) % 16) 0 ^^^ slots.getD ((j - 9) % 16) 0 ^^^ rotl (slots.getD ((j - 3) % 16) 0) 15)
    ^^^ rotl (slots.getD ((j - 13) % 16) 0) 7 ^^^ slots.getD ((j - 6) % 16) 0

/-- `n` steps of the ring buffer from word j on (R284): compute W[j], produce W1[j-4], then store W[j] in slot j mod 16. -/
def ringRun : Nat → Nat → List Word → List (Word × Word)
  | 0, _, _ => []
  | n + 1, j, slots =>
    let x := ringWord slots j
    (x, slots.getD ((j - 4) % 16) 0 ^^^ x) :: ringRun n (j + 1) (slots.set (j % 16) x)

/-- Ring-buffer strategy (R284): slot k starts with W[k], and W1[0..11] come from the starting slots. -/
def ringSchedule (b : List Byte) : List Word × List Word :=
  let slots := blockWords b
  let out := ringRun 52 16 slots
  (slots ++ out.map Prod.fst,
   ((List.range 12).map fun j => slots.getD j 0 ^^^ slots.getD (j + 4) 0) ++ out.map Prod.snd)

/-- One word of the unrolled sequence (R280 written on five named words). -/
def unrolledWord (x16 x13 x9 x6 x3 : Word) : Word := p1 (x16 ^^^ x9 ^^^ rotl x3 15) ^^^ rotl x13 7 ^^^ x6

/-- The expansion words with no loop control (R285, unrolled). -/
def unrolledWords (b : List Byte) : List Word :=
  let w0 := wordAt b 0
  let w1 := wordAt b 1
  let w2 := wordAt b 2
  let w3 := wordAt b 3
  let w4 := wordAt b 4
  let w5 := wordAt b 5
  let w6 := wordAt b 6
  let w7 := wordAt b 7
  let w8 := wordAt b 8
  let w9 := wordAt b 9
  let w10 := wordAt b 10
  let w11 := wordAt b 11
  let w12 := wordAt b 12
  let w13 := wordAt b 13
  let w14 := wordAt b 14
  let w15 := wordAt b 15
  let w16 := unrolledWord w0 w3 w7 w10 w13
  let w17 := unrolledWord w1 w4 w8 w11 w14
  let w18 := unrolledWord w2 w5 w9 w12 w15
  let w19 := unrolledWord w3 w6 w10 w13 w16
  let w20 := unrolledWord w4 w7 w11 w14 w17
  let w21 := unrolledWord w5 w8 w12 w15 w18
  let w22 := unrolledWord w6 w9 w13 w16 w19
  let w23 := unrolledWord w7 w10 w14 w17 w20
  let w24 := unrolledWord w8 w11 w15 w18 w21
  let w25 := unrolledWord w9 w12 w16 w19 w22
  let w26 := unrolledWord w10 w13 w17 w20 w23
  let w27 := unrolledWord w11 w14 w18 w21 w24
  let w28 := unrolledWord w12 w15 w19 w22 w25
  let w29 := unrolledWord w13 w16 w20 w23 w26
  let w30 := unrolledWord w14 w17 w21 w24 w27
  let w31 := unrolledWord w15 w18 w22 w25 w28
  let w32 := unrolledWord w16 w19 w23 w26 w29
  let w33 := unrolledWord w17 w20 w24 w27 w30
  let w34 := unrolledWord w18 w21 w25 w28 w31
  let w35 := unrolledWord w19 w22 w26 w29 w32
  let w36 := unrolledWord w20 w23 w27 w30 w33
  let w37 := unrolledWord w21 w24 w28 w31 w34
  let w38 := unrolledWord w22 w25 w29 w32 w35
  let w39 := unrolledWord w23 w26 w30 w33 w36
  let w40 := unrolledWord w24 w27 w31 w34 w37
  let w41 := unrolledWord w25 w28 w32 w35 w38
  let w42 := unrolledWord w26 w29 w33 w36 w39
  let w43 := unrolledWord w27 w30 w34 w37 w40
  let w44 := unrolledWord w28 w31 w35 w38 w41
  let w45 := unrolledWord w29 w32 w36 w39 w42
  let w46 := unrolledWord w30 w33 w37 w40 w43
  let w47 := unrolledWord w31 w34 w38 w41 w44
  let w48 := unrolledWord w32 w35 w39 w42 w45
  let w49 := unrolledWord w33 w36 w40 w43 w46
  let w50 := unrolledWord w34 w37 w41 w44 w47
  let w51 := unrolledWord w35 w38 w42 w45 w48
  let w52 := unrolledWord w36 w39 w43 w46 w49
  let w53 := unrolledWord w37 w40 w44 w47 w50
  let w54 := unrolledWord w38 w41 w45 w48 w51
  let w55 := unrolledWord w39 w42 w46 w49 w52
  let w56 := unrolledWord w40 w43 w47 w50 w53
  let w57 := unrolledWord w41 w44 w48 w51 w54
  let w58 := unrolledWord w42 w45 w49 w52 w55
  let w59 := unrolledWord w43 w46 w50 w53 w56
  let w60 := unrolledWord w44 w47 w51 w54 w57
  let w61 := unrolledWord w45 w48 w52 w55 w58
  let w62 := unrolledWord w46 w49 w53 w56 w59
  let w63 := unrolledWord w47 w50 w54 w57 w60
  let w64 := unrolledWord w48 w51 w55 w58 w61
  let w65 := unrolledWord w49 w52 w56 w59 w62
  let w66 := unrolledWord w50 w53 w57 w60 w63
  let w67 := unrolledWord w51 w54 w58 w61 w64
  [w0, w1, w2, w3, w4, w5, w6, w7, w8, w9, w10, w11, w12, w13, w14, w15, w16]
    ++ [w17, w18, w19, w20, w21, w22, w23, w24, w25, w26, w27, w28, w29, w30, w31, w32, w33]
    ++ [w34, w35, w36, w37, w38, w39, w40, w41, w42, w43, w44, w45, w46, w47, w48, w49, w50]
    ++ [w51, w52, w53, w54, w55, w56, w57, w58, w59, w60, w61, w62, w63, w64, w65, w66, w67]

/-- Unrolled strategy (R285). -/
def unrolledSchedule (b : List Byte) : List Word × List Word := (unrolledWords b, mixWords (unrolledWords b))

/-- Three consecutive words at once, all from words known before the step (R285, vector-parallel). -/
def vectorStep (ws : List Word) : List Word :=
  ws ++ [nextWord ws ws.length, nextWord ws (ws.length + 1), nextWord ws (ws.length + 2)]

/-- `n` vector steps. -/
def vectorGrow : Nat → List Word → List Word
  | 0, ws => ws
  | n + 1, ws => vectorGrow n (vectorStep ws)

/-- Vector-parallel strategy (R285): 17 steps of three words, and W[67] on its own. -/
def vectorSchedule (b : List Byte) : List Word × List Word :=
  let ws := growWords 1 (vectorGrow 17 (blockWords b))
  (ws, mixWords ws)

/-- The strategy CONFIG.STRAT names (10_state.md R55). -/
def scheduleOf (strat : BitVec 2) (b : List Byte) : List Word × List Word :=
  match strat with
  | 0 => directSchedule b
  | 1 => ringSchedule b
  | 2 => unrolledSchedule b
  | 3 => vectorSchedule b

end Sys2Proof.Machine
end

