-- ==== Sys2Proof/Safety.lean ====
section
/-! DEFINITION. What holds in every state a run can reach: the invariants that the obligations state, in the spec's terms. -/

namespace Sys2Proof.Machine

/-- MEM is in its canonical form and lists no address outside [0, MEM_BYTES) (20_memory.md R100). -/
def State.MemInv (s : State) : Prop := s.mem.wf = true ∧ ∀ c ∈ s.mem, c.1 < s.params.memBytes

/-- The leaf store is in its canonical form, LEAFCNT is in [0, MAX_LEAVES], and every slot below it has been written
(10_state.md R63, R70; 45_merkle.md R400). -/
def State.LeafInv (s : State) : Prop :=
  storeWf s.leaf = true ∧ s.leafCnt.toNat ≤ s.params.maxLeaves ∧
    (∀ c ∈ s.leaf, c.1 < s.params.maxLeaves) ∧ ∀ i < s.leafCnt.toNat, (storeGet s.leaf i).isSome = true

/-- RND is in [0, 64] (10_state.md R62), and while a round sequence is open the schedule registers hold the schedule of one
block and WK holds the state after RND rounds from V: V is the pre-block state (43_compression.md R315-R317). -/
def State.RoundInv (s : State) : Prop :=
  s.rnd.toNat ≤ 64 ∧
    (s.cfact = true →
      ∃ b : List Byte, b.length = 64 ∧ s.w = expand b ∧ s.w1 = mixing (expand b) ∧
        s.wk = rounds s.w s.w1 s.v s.rnd.toNat)

/-- While BUILT = 1 the tree registers describe the tree over exactly the current leaves (10_state.md R64, R67, R70). -/
def State.TreeInv (s : State) : Prop :=
  s.built = true →
    s.leafCnt.toNat ≠ 0 ∧ s.root = treeRoot s.leafList ∧ s.depth = BitVec.ofNat 6 (treeDepth s.leafList)

/-- The whole invariant. -/
def State.Inv (s : State) : Prop :=
  s.params.ok = true ∧ s.MemInv ∧ s.LeafInv ∧ s.RoundInv ∧ s.TreeInv

end Sys2Proof.Machine
end

