-- ==== Sys2Proof/Certificates/Slice0/Obligations.lean ====
section
/-! DEFINITION. The statements for the provers, one `def Obligations.<Name> : Prop` each, after the few words they share. In
every one `s` is any state, so also any value of the OPEN parameters MEM_BYTES and MAX_LEAVES, which stand in it. A rule
statement about a command says its command word, its next state when its checks pass, and its next state for each failing
check; the record `s with ...` is the frame: every field not named is unchanged. -/

namespace Sys2Proof.Machine

/-- Region(a, n) of 00_scope.md R12. -/
abbrev InMem (s : State) (a n : Nat) : Prop := n = 0 ∨ a + n ≤ s.params.memBytes

/-- The bytes `bs` stand at `a`, and every byte of MEM outside them is as it was. -/
def Stores (m m' : Memory) (a : Nat) (bs : List Byte) : Prop :=
  (∀ k, k < bs.length → m'.read (a + k) = bs[k]?) ∧ ∀ b, (b < a ∨ a + bs.length ≤ b) → m'.read b = m.read b

/-- The outcome of a command that ends in the error `e` (60_exceptions.md R500, R503). -/
def failsWith (s : State) (e : Code) : Host.Outcome State Fault Refusal := .next { s with code := e, err := true }

/-- How many bytes each command writes at DST (20_memory.md R106, 30_encoding.md R153). -/
def outputSize (i : Instr) (s : State) : Nat :=
  match i with
  | .stst => 32
  | .hexst => 64
  | .pad _ => padLen s.len.toNat
  | .padt => padLen s.aux.toNat - s.aux.toNat
  | .hash => 32
  | .hashx => 64
  | .mkbld => 32
  | .mkprv => 8 + 32 * s.depth.toNat
  | .mkprh => 8 + 32 * s.depth.toNat
  | .lefg => 32
  | .init => 0 | .ldst => 0 | .expd => 0 | .blkb => 0 | .rstep => 0 | .blke => 0 | .cmpr => 0 | .staf => 0
  | .mkclr => 0 | .mkleaf => 0 | .mkvfy => 0

/-- The error codes each command can end with (60_exceptions.md R501, R505). -/
def raisable : Instr → List Code
  | .init => [] | .mkclr => []
  | .ldst => [.addrRange] | .stst => [.addrRange] | .hexst => [.addrRange] | .expd => [.addrRange]
  | .blkb => [.addrRange] | .hash => [.addrRange] | .hashx => [.addrRange] | .staf => [.addrRange]
  | .pad true => [.lengthOverflow, .addrRange]
  | .pad false => [.addrRange]
  | .padt => [.lengthOverflow, .addrRange]
  | .lefg => [.lengthOverflow, .addrRange]
  | .rstep => [.roundSeq] | .blke => [.roundSeq]
  | .cmpr => [.emptyInput, .blockAlign, .addrRange]
  | .mkleaf => [.capacity, .addrRange]
  | .mkbld => [.emptyInput, .addrRange]
  | .mkprv => [.notBuilt, .addrRange, .notFound]
  | .mkprh => [.notBuilt, .addrRange, .notFound, .duplicateLeaf]
  | .mkvfy => [.addrRange, .badProof]

/-- The commands that leave W, W1 and WK unspecified (43_compression.md R314, second bullet). -/
def datapathCommands : List Instr := [.cmpr, .hash, .hashx, .staf, .mkleaf, .mkbld, .mkvfy, .lefg]

/-- The commands that close a round sequence (43_compression.md R314, first bullet). -/
def abandoningCommands : List Instr := .init :: .ldst :: .expd :: datapathCommands

/-- The commands that touch no round-sequence state at all (43_compression.md R314, third bullet, and R319). -/
def quietCommands : List Instr := [.stst, .hexst, .pad false, .pad true, .padt, .mkclr, .mkprv, .mkprh]

/-- Run commands one after another, as a host that writes their words to CMD does. -/
def runCommands : List Instr → State → Host.Outcome State Fault Refusal
  | [], s => .next s
  | i :: is, s =>
    match exec i s with
    | .next t => runCommands is t
    | .fault f => .fault f
    | .refused r => .refused r

/-- A 32-bit host read at the offset `off` returns `x` and changes nothing but the model's record of reads. -/
def Reads (s : State) (off : Nat) (x : Word) : Prop :=
  hostStep (.mmioRead 32 off) s = .next { s with hostReads := .reg off x :: s.hostReads }

/-- The words of a group of eight in the order of their offsets: A first, H last (10_state.md R65, R66). -/
def eightWords (x : Words8) : List Word := [x.a, x.b, x.c, x.d, x.e, x.f, x.g, x.h]

end Sys2Proof.Machine

open Sys2Proof Sys2Proof.Machine

/-! ### Encoding, and a step as a command -/

/-- R151, R152: decoding gives an instruction exactly when the word is that instruction's encoding: every encoding decodes
to its instruction, and no other word does. -/
def Obligations.DecodeAndEncodeAgree : Prop := ∀ (c : Word) (i : Instr), decode c = .ok i ↔ encode i = c

/-- R151: the decoder accepts exactly the words that pass the checks (a), (b) and (c); a CMD write of any other word
ends with ILLEGAL_CMD whatever the state, with the word stored in CMD and nothing else changed. -/
def Obligations.InvalidWordsAreIllegal : Prop :=
  (∀ c : Word, (∃ i, decode c = .ok i) ↔ validWord c = true) ∧
  ∀ (s : State) (c : Word) (rest : List HostOp), s.hostQueue = .mmioWrite 32 0x004 c :: rest → validWord c = false →
    step s = .next { s with hostQueue := rest, cmd := c, code := .illegalCmd, err := true }

/-- R53: when the host's next step is a CMD write of a word that decodes to `i`, the machine's step is `exec i`, on the
state with that host step taken and the word stored in CMD. -/
def Obligations.StepRunsDecodedCommand : Prop :=
  ∀ (s : State) (c : Word) (i : Instr) (rest : List HostOp),
    s.hostQueue = .mmioWrite 32 0x004 c :: rest → decode c = .ok i →
      step s = exec i { s with hostQueue := rest, cmd := c }

/-- R152: words written out from the opcode map, of every family. -/
def Obligations.SampleWordsDecode : Prop :=
  decode 0x00000001 = .ok .init ∧ decode 0x00000010 = .ok (.pad false) ∧ decode 0x00000110 = .ok (.pad true) ∧
  decode 0x00000012 = .ok .expd ∧ decode 0x00000016 = .ok .cmpr ∧ decode 0x00000021 = .ok .hashx ∧
  decode 0x00000035 = .ok .mkvfy ∧ decode 0x00000040 = .ok .lefg ∧
  decode 0x00000000 = .error .reservedOpcode ∧ decode 0x00010001 = .error .rsvNonzero ∧
  decode 0x00000210 = .error .flagsNonzero

/-! ### What every command keeps to -/

/-- R500: every command ends, in a next state, in one of two ways: success with ERR unchanged, or an error that the command
can raise (R501) with ERR = 1. -/
def Obligations.EveryCommandCompletes : Prop :=
  ∀ (i : Instr) (s : State), ∃ t, exec i s = .next t ∧
    ((t.code = .ok ∧ t.err = s.err) ∨ (t.code ∈ raisable i ∧ t.err = true))

/-- R503: a command that ends in an error changes nothing but STATUS.CODE and STATUS.ERR (the model's own draw count may
move: assumption 3), and CMD holds the word written, as after every CMD write. -/
def Obligations.ErrorsArePrecise : Prop :=
  (∀ (i : Instr) (s t : State), exec i s = .next t → t.code ≠ .ok →
    t = { s with code := t.code, err := true, draws := t.draws }) ∧
  ∀ (s t : State) (c : Word) (rest : List HostOp), s.hostQueue = .mmioWrite 32 0x004 c :: rest → step s = .next t →
    t.cmd = c

/-- R154, last sentence: no command modifies an operand register; nor does one modify CMD, CONFIG, the parameters or the
host's side of the state. -/
def Obligations.CommandsKeepOperands : Prop :=
  ∀ (i : Instr) (s t : State), exec i s = .next t →
    t.src = s.src ∧ t.len = s.len ∧ t.dst = s.dst ∧ t.ptr2 = s.ptr2 ∧ t.aux = s.aux ∧ t.cmd = s.cmd ∧
    t.strat = s.strat ∧ t.params = s.params ∧ t.hostQueue = s.hostQueue ∧ t.hostReads = s.hostReads

/-- R65: V is written only by INIT, LDST, BLKE, CMPR and STAF. -/
def Obligations.OnlyFiveCommandsWriteV : Prop :=
  ∀ (i : Instr) (s t : State), exec i s = .next t → t.v ≠ s.v → i ∈ [Instr.init, .ldst, .blke, .cmpr, .staf]

/-- R63, R64, R67, R70: the leaf store and LEAFCNT are written only by MKCLR and MKLEAF, and BUILT, DEPTH and ROOT only by
MKCLR, MKLEAF and MKBLD. -/
def Obligations.OnlyMerkleCommandsWriteTheTree : Prop :=
  ∀ (i : Instr) (s t : State), exec i s = .next t →
    (t.leafCnt ≠ s.leafCnt → i ∈ [Instr.mkclr, .mkleaf]) ∧
    (t.leaf ≠ s.leaf → i = .mkleaf) ∧
    (t.built ≠ s.built → i ∈ [Instr.mkclr, .mkleaf, .mkbld]) ∧
    ((t.depth ≠ s.depth ∨ t.root ≠ s.root) → i ∈ [Instr.mkclr, .mkbld])

/-- R106, R109, R153: a command writes at most one region of MEM, of its own size, at DST: every byte outside it reads as
before, and a command that stores nothing leaves all of MEM. -/
def Obligations.CommandsWriteOnlyTheirRegion : Prop :=
  ∀ (i : Instr) (s t : State), exec i s = .next t →
    (outputSize i s = 0 → t.mem = s.mem) ∧
    ∀ a, (a < s.dst.toNat ∨ s.dst.toNat + outputSize i s ≤ a) → t.mem.read a = s.mem.read a

/-- R314: an abandoning command that succeeds closes the round sequence; one that runs the datapath also leaves a fresh
draw in every word of W, W1 and WK; the quiet commands leave CFACT, RND, W, W1 and WK alone, BLKE all of them but CFACT,
RSTEP all but WK and RND; and a failing command changes none of them. The numbers of the draws are the model's (assumption
3). -/
def Obligations.AbandoningCommands : Prop :=
  (∀ i ∈ abandoningCommands, ∀ s t : State, exec i s = .next t → t.code = .ok → t.cfact = false ∧ t.rnd = 0) ∧
  (∀ i ∈ datapathCommands, ∀ s t : State, exec i s = .next t → t.code = .ok →
    ∃ d, s.draws ≤ d ∧ t.draws = d + 140 ∧
      (∀ j : Fin 68, t.w[j.val] = Config.freeWord (d + j.val)) ∧
      (∀ j : Fin 64, t.w1[j.val] = Config.freeWord (d + 68 + j.val)) ∧
      (∀ j : Fin 8, t.wk.get j = Config.freeWord (d + 132 + j.val))) ∧
  (∀ i ∈ quietCommands, ∀ s t : State, exec i s = .next t →
    t.cfact = s.cfact ∧ t.rnd = s.rnd ∧ t.w = s.w ∧ t.w1 = s.w1 ∧ t.wk = s.wk) ∧
  (∀ s t : State, exec .blke s = .next t → t.rnd = s.rnd ∧ t.w = s.w ∧ t.w1 = s.w1 ∧ t.wk = s.wk) ∧
  (∀ s t : State, exec .rstep s = .next t → t.cfact = s.cfact ∧ t.w = s.w ∧ t.w1 = s.w1) ∧
  (∀ (i : Instr) (s t : State), exec i s = .next t → t.code ≠ .ok →
    t.cfact = s.cfact ∧ t.rnd = s.rnd ∧ t.w = s.w ∧ t.w1 = s.w1 ∧ t.wk = s.wk)

/-- R55, R286: CONFIG.STRAT has no effect on anything a command computes or writes: two runs that differ only in it end in
states that differ only in it. -/
def Obligations.StrategyHasNoEffect : Prop :=
  ∀ (i : Instr) (s t : State) (x : BitVec 2), exec i s = .next t →
    exec i { s with strat := x } = .next { t with strat := x }

/-- R283-R286: the four schedule strategies give the same W and W1 for every block: those of Expand (R280, R281), the one
the machine uses. The forms of the unrolled and the vector strategy are the model's choice (assumption 10). -/
def Obligations.StrategiesBitIdentical : Prop :=
  ∀ (strat : BitVec 2) (b : List Byte), scheduleOf strat b = ((expand b).toList, (mixing (expand b)).toList)

/-! ### Invariants -/

/-- The state after reset meets the whole invariant of Safety.lean. -/
def Obligations.ResetMeetsInvariant : Prop := State.reset.Inv

/-- R100: every step keeps MEM in its canonical form and inside [0, MEM_BYTES). -/
def Obligations.StepKeepsMemory : Prop := ∀ s t : State, s.MemInv → step s = .next t → t.MemInv

/-- R63, R70, R400: every step keeps LEAFCNT in [0, MAX_LEAVES] and every slot below it written. -/
def Obligations.StepKeepsLeafStore : Prop :=
  ∀ s t : State, s.params.ok = true → s.LeafInv → step s = .next t → t.LeafInv

/-- R62, R315-R317: every step keeps RND in [0, 64], and while a sequence is open WK is the state after RND rounds of one
block from V, so that V is the pre-block state whenever BLKE reads it. -/
def Obligations.StepKeepsRoundSequence : Prop := ∀ s t : State, s.RoundInv → step s = .next t → t.RoundInv

/-- R64, R67, R70: every step keeps BUILT = 1 meaning that ROOT and DEPTH are those of the tree over exactly the current
leaves. -/
def Obligations.StepKeepsBuiltTree : Prop := ∀ s t : State, s.TreeInv → step s = .next t → t.TreeInv

/-! ### Reset and the register window -/

/-- R601: after the engine's reset every register has the value of the table, reserved offsets read 0 and MEM is unchanged;
the state the model starts in is such a state. -/
def Obligations.ResetValues : Prop :=
  (∀ s : State, ∃ t, hostStep .reset s = .next t ∧ t.mem = s.mem ∧ t.leafCnt = 0 ∧
    t.v = ⟨0x7380166F, 0x4914B2B9, 0x172442D7, 0xDA8A0600, 0xA96F30BC, 0x163138AA, 0xE38DEE4D, 0xB0FB0E4E⟩ ∧
    t.cfact = false ∧ t.built = false ∧
    ∀ off, off < 4096 → off % 4 = 0 → (off < 0x040 ∨ 0x060 ≤ off) →
      t.readReg (Reg.ofOffset off) = if off = 0 then 0x534D3301 else 0) ∧
  hostStep .reset State.reset = .next State.reset

/-- R52: ID reads as its constant in every state, and a write to it is ignored. -/
def Obligations.IdIsConstant : Prop :=
  ∀ (s : State) (x : Word), s.readReg (Reg.ofOffset 0x000) = 0x534D3301 ∧
    hostStep (.mmioWrite 32 0x000 x) s = .next s

/-- R71: the register map, with the offsets of the table: each register stands at its offset and nowhere else, and the
reserved offsets are those of the table. -/
def Obligations.RegisterMap : Prop :=
  (Reg.ofOffset 0x000 = .id ∧ Reg.ofOffset 0x004 = .cmd ∧ Reg.ofOffset 0x008 = .status ∧ Reg.ofOffset 0x00C = .config ∧
    Reg.ofOffset 0x010 = .src ∧ Reg.ofOffset 0x014 = .len ∧ Reg.ofOffset 0x018 = .dst ∧ Reg.ofOffset 0x01C = .ptr2 ∧
    Reg.ofOffset 0x020 = .auxLo ∧ Reg.ofOffset 0x024 = .auxHi ∧ Reg.ofOffset 0x028 = .resultLo ∧
    Reg.ofOffset 0x02C = .resultHi ∧ Reg.ofOffset 0x030 = .rnd ∧ Reg.ofOffset 0x034 = .leafcnt ∧
    Reg.ofOffset 0x038 = .depth) ∧
  (∀ i : Fin 8, Reg.ofOffset (0x040 + 4 * i.val) = .v i ∧ Reg.ofOffset (0x060 + 4 * i.val) = .wk i ∧
    Reg.ofOffset (0x080 + 4 * i.val) = .root i) ∧
  (∀ j : Fin 68, Reg.ofOffset (0x100 + 4 * j.val) = .w j) ∧
  (∀ j : Fin 64, Reg.ofOffset (0x300 + 4 * j.val) = .w1 j) ∧
  (∀ r : Reg, Reg.ofOffset r.offset = r) ∧
  ∀ off, off < 4096 → off % 4 = 0 →
    (Reg.ofOffset off = .reserved ↔
      off = 0x03C ∨ (0x0A0 ≤ off ∧ off ≤ 0x0FC) ∨ (0x210 ≤ off ∧ off ≤ 0x2FC) ∨ 0x400 ≤ off) ∧
    (Reg.ofOffset off ≠ .reserved → (Reg.ofOffset off).offset = off)

/-- R52-R72: an access of another width or at an offset that is no multiple of 4 is refused; a read changes no register, and
returns, at each offset of R71, what its register holds: bits above RND's 7, DEPTH's 6 and STRAT's 2, and every reserved
offset, read 0; a write to a reserved offset or to a read-only register changes nothing. -/
def Obligations.MmioAccessRules : Prop :=
  (∀ (s : State) (width off : Nat) (x : Word), off < 4096 → (width ≠ 32 ∨ off % 4 ≠ 0) →
    hostStep (.mmioRead width off) s = .refused .mmioBusError ∧
    hostStep (.mmioWrite width off x) s = .refused .mmioBusError) ∧
  (∀ (s : State) (off : Nat), off < 4096 → off % 4 = 0 → ∃ x, Reads s off x) ∧
  (∀ s : State,
    Reads s 0x000 0x534D3301 ∧ Reads s 0x004 s.cmd ∧ Reads s 0x008 s.statusWord ∧
    Reads s 0x00C (BitVec.ofNat 32 s.strat.toNat) ∧
    Reads s 0x010 s.src ∧ Reads s 0x014 s.len ∧ Reads s 0x018 s.dst ∧ Reads s 0x01C s.ptr2 ∧
    Reads s 0x020 (BitVec.ofNat 32 (s.aux.toNat % 2 ^ 32)) ∧ Reads s 0x024 (BitVec.ofNat 32 (s.aux.toNat / 2 ^ 32)) ∧
    Reads s 0x028 (BitVec.ofNat 32 (s.result.toNat % 2 ^ 32)) ∧
    Reads s 0x02C (BitVec.ofNat 32 (s.result.toNat / 2 ^ 32)) ∧
    Reads s 0x030 (BitVec.ofNat 32 s.rnd.toNat) ∧ Reads s 0x034 s.leafCnt ∧
    Reads s 0x038 (BitVec.ofNat 32 s.depth.toNat)) ∧
  (∀ (s : State) (i : Fin 8),
    Reads s (0x040 + 4 * i.val) ((eightWords s.v).getD i.val 0) ∧
    Reads s (0x060 + 4 * i.val) ((eightWords s.wk).getD i.val 0) ∧
    Reads s (0x080 + 4 * i.val) ((eightWords s.root).getD i.val 0)) ∧
  (∀ (s : State) (j : Fin 68), Reads s (0x100 + 4 * j.val) s.w[j.val]) ∧
  (∀ (s : State) (j : Fin 64), Reads s (0x300 + 4 * j.val) s.w1[j.val]) ∧
  (∀ (s : State) (off : Nat), off < 4096 → off % 4 = 0 →
    (off = 0x03C ∨ (0x0A0 ≤ off ∧ off ≤ 0x0FC) ∨ (0x210 ≤ off ∧ off ≤ 0x2FC) ∨ 0x400 ≤ off) → Reads s off 0) ∧
  (∀ (s : State) (off : Nat) (x : Word), off < 4096 → off % 4 = 0 →
    (off = 0x000 ∨ (0x028 ≤ off ∧ off < 4096)) → hostStep (.mmioWrite 32 off x) s = .next s)

/-- R53, R55-R60: a write to CONFIG, SRC, LEN, DST, PTR2 or a half of AUX stores the value (CONFIG its two low bits, AUX that
half alone) and nothing else, and the register reads back as stored; CMD reads back the last value written, whatever the
command did. -/
def Obligations.WritableRegisters : Prop :=
  ∀ (s : State) (x : Word),
    (∃ t, hostStep (.mmioWrite 32 0x004 x) s = .next t ∧ Reads t 0x004 x) ∧
    (∃ t, hostStep (.mmioWrite 32 0x00C x) s = .next t ∧ t = { s with strat := x.extractLsb' 0 2 } ∧
      Reads t 0x00C (BitVec.ofNat 32 (x.toNat % 4))) ∧
    (∃ t, hostStep (.mmioWrite 32 0x010 x) s = .next t ∧ t = { s with src := x } ∧ Reads t 0x010 x) ∧
    (∃ t, hostStep (.mmioWrite 32 0x014 x) s = .next t ∧ t = { s with len := x } ∧ Reads t 0x014 x) ∧
    (∃ t, hostStep (.mmioWrite 32 0x018 x) s = .next t ∧ t = { s with dst := x } ∧ Reads t 0x018 x) ∧
    (∃ t, hostStep (.mmioWrite 32 0x01C x) s = .next t ∧ t = { s with ptr2 := x } ∧ Reads t 0x01C x) ∧
    (∃ t, hostStep (.mmioWrite 32 0x020 x) s = .next t ∧ t = { s with aux := t.aux } ∧
      t.aux.toNat = s.aux.toNat / 2 ^ 32 * 2 ^ 32 + x.toNat ∧ Reads t 0x020 x) ∧
    (∃ t, hostStep (.mmioWrite 32 0x024 x) s = .next t ∧ t = { s with aux := t.aux } ∧
      t.aux.toNat = x.toNat * 2 ^ 32 + s.aux.toNat % 2 ^ 32 ∧ Reads t 0x024 x) ∧
    ({ s with strat := x.extractLsb' 0 2 }.readReg .config).toNat = x.toNat % 4 ∧
    (s.readReg .auxHi).toNat * 2 ^ 32 + (s.readReg .auxLo).toNat = s.aux.toNat

/-- R54: what a read of STATUS returns, bit by bit, its W1C bit, its reset value, the value CODE holds for each code of R501,
and what a succeeding and a failing command do to it. -/
def Obligations.StatusRegister : Prop :=
  (∀ s : State, Reads s 0x008 s.statusWord ∧ s.readReg .status = s.statusWord) ∧
  (∀ s : State, s.statusWord.extractLsb' 0 8 = codeByte s.code ∧ s.statusWord.getLsbD 8 = s.err ∧
    s.statusWord.getLsbD 9 = s.cfact ∧ s.statusWord.getLsbD 10 = s.built ∧ s.statusWord.toNat < 2 ^ 11) ∧
  (∀ (s : State) (x : Word), hostStep (.mmioWrite 32 0x008 x) s =
    .next { s with err := if x.getLsbD 8 = true then false else s.err }) ∧
  State.reset.statusWord = 0 ∧
  ([Code.ok, .illegalCmd, .lengthOverflow, .emptyInput, .blockAlign, .addrRange, .notFound, .duplicateLeaf, .capacity,
    .notBuilt, .roundSeq, .badProof].map fun c => (codeByte c).toNat) = List.range 12 ∧
  (∀ (i : Instr) (s t : State), exec i s = .next t →
    (t.code = .ok → t.err = s.err) ∧ (t.code ≠ .ok → t.err = true))

/-- R100, R102, R107, R111: a host write of a MEM byte changes that byte alone; a host read changes nothing and returns the
byte last written, or a draw where none was; there is no byte outside [0, MEM_BYTES). The draw's number (assumption 3) and
the fault (assumption 7) are the model's. -/
def Obligations.HostMemoryAccess : Prop :=
  (∀ (s : State) (a : Nat) (b : Byte), a < s.params.memBytes →
    ∃ t, hostStep (.memWrite a b) s = .next t ∧ t = { s with mem := t.mem } ∧ Stores s.mem t.mem a [b]) ∧
  (∀ (s : State) (a : Nat) (b : Byte), a < s.params.memBytes → s.mem.read a = some b →
    ∃ t, hostStep (.memRead a) s = .next t ∧
      t = { s with hostReads := .mem a b :: s.hostReads, draws := t.draws }) ∧
  (∀ (s : State) (a : Nat), a < s.params.memBytes → s.mem.read a = none →
    hostStep (.memRead a) s =
      .next { s with hostReads := .mem a (Config.freeByte s.draws) :: s.hostReads, draws := s.draws + 1 }) ∧
  (∀ (s : State) (a : Nat) (b : Byte), s.params.memBytes ≤ a →
    hostStep (.memWrite a b) s = .fault .hostMemRange ∧ hostStep (.memRead a) s = .fault .hostMemRange)

/-! ### The commands, one by one -/

/-- INIT (R353): V <- IV and any round sequence is closed; it never fails. -/
def Obligations.InitRule : Prop :=
  decode 0x00000001 = .ok .init ∧
  ∀ s : State, exec .init s =
    .next { s with
      v := ⟨0x7380166F, 0x4914B2B9, 0x172442D7, 0xDA8A0600, 0xA96F30BC, 0x163138AA, 0xE38DEE4D, 0xB0FB0E4E⟩
      cfact := false, rnd := 0, code := .ok }

/-- LDST (R354). -/
def Obligations.LdstRule : Prop :=
  decode 0x00000002 = .ok .ldst ∧
  (∀ s : State, InMem s s.src.toNat 32 →
    ∃ t, exec .ldst s = .next t ∧
      t = { s with v := unserialize (s.readBytes s.src.toNat 32), cfact := false, rnd := 0, code := .ok,
                   draws := t.draws }) ∧
  (∀ s : State, ¬ InMem s s.src.toNat 32 → exec .ldst s = failsWith s .addrRange)

/-- STST (R355). -/
def Obligations.StstRule : Prop :=
  decode 0x00000003 = .ok .stst ∧
  (∀ s : State, InMem s s.dst.toNat 32 →
    ∃ t, exec .stst s = .next t ∧ t = { s with mem := t.mem, code := .ok } ∧
      Stores s.mem t.mem s.dst.toNat (serialize s.v)) ∧
  (∀ s : State, ¬ InMem s s.dst.toNat 32 → exec .stst s = failsWith s .addrRange)

/-- HEXST (R356). -/
def Obligations.HexstRule : Prop :=
  decode 0x00000004 = .ok .hexst ∧
  (∀ s : State, InMem s s.dst.toNat 64 →
    ∃ t, exec .hexst s = .next t ∧ t = { s with mem := t.mem, code := .ok } ∧
      Stores s.mem t.mem s.dst.toNat (hexBytes (serialize s.v))) ∧
  (∀ s : State, ¬ InMem s s.dst.toNat 64 → exec .hexst s = failsWith s .addrRange)

/-- PAD and PAD.L (R255): the zero count follows LEN, the length field LEN or, for PAD.L, AUX; the checks in order. -/
def Obligations.PadRule : Prop :=
  decode 0x00000010 = .ok (.pad false) ∧ decode 0x00000110 = .ok (.pad true) ∧
  ∀ (l : Bool) (s : State) (lf : Nat), lf = (if l = true then s.aux.toNat else s.len.toNat) →
    (2 ^ 61 ≤ lf → exec (.pad l) s = failsWith s .lengthOverflow) ∧
    (lf < 2 ^ 61 → (¬ InMem s s.src.toNat s.len.toNat ∨ ¬ InMem s s.dst.toNat (padLen s.len.toNat)) →
      exec (.pad l) s = failsWith s .addrRange) ∧
    (lf < 2 ^ 61 → InMem s s.src.toNat s.len.toNat → InMem s s.dst.toNat (padLen s.len.toNat) →
      ∃ t, exec (.pad l) s = .next t ∧
        t = { s with mem := t.mem, result := BitVec.ofNat 64 (padLen s.len.toNat), code := .ok, draws := t.draws } ∧
        Stores s.mem t.mem s.dst.toNat (padWith (s.readBytes s.src.toNat s.len.toNat) lf))

/-- PADT (R256). -/
def Obligations.PadtRule : Prop :=
  decode 0x00000011 = .ok .padt ∧
  (∀ s : State, 2 ^ 61 ≤ s.aux.toNat → exec .padt s = failsWith s .lengthOverflow) ∧
  (∀ s : State, s.aux.toNat < 2 ^ 61 → ¬ InMem s s.dst.toNat (padLen s.aux.toNat - s.aux.toNat) →
    exec .padt s = failsWith s .addrRange) ∧
  (∀ s : State, s.aux.toNat < 2 ^ 61 → InMem s s.dst.toNat (padLen s.aux.toNat - s.aux.toNat) →
    ∃ t, exec .padt s = .next t ∧
      t = { s with mem := t.mem, result := BitVec.ofNat 64 (padLen s.aux.toNat - s.aux.toNat), code := .ok } ∧
      Stores s.mem t.mem s.dst.toNat (padTail s.aux.toNat))

/-- EXPD (R287): W and W1 from the block, word by word, and any round sequence is closed. -/
def Obligations.ExpdRule : Prop :=
  decode 0x00000012 = .ok .expd ∧
  (∀ s : State, InMem s s.src.toNat 64 →
    ∃ t, exec .expd s = .next t ∧
      t = { s with w := t.w, w1 := t.w1, cfact := false, rnd := 0, code := .ok, draws := t.draws } ∧
      t.w = expand (s.readBytes s.src.toNat 64) ∧ ∀ j : Fin 64, t.w1[j.val] = t.w[j.val] ^^^ t.w[j.val + 4]) ∧
  (∀ s : State, ¬ InMem s s.src.toNat 64 → exec .expd s = failsWith s .addrRange)

/-- BLKB (R315). -/
def Obligations.BlkbRule : Prop :=
  decode 0x00000013 = .ok .blkb ∧
  (∀ s : State, InMem s s.src.toNat 64 →
    ∃ t, exec .blkb s = .next t ∧
      t = { s with w := t.w, w1 := t.w1, wk := s.v, cfact := true, rnd := 0, code := .ok, draws := t.draws } ∧
      t.w = expand (s.readBytes s.src.toNat 64) ∧ ∀ j : Fin 64, t.w1[j.val] = t.w[j.val] ^^^ t.w[j.val + 4]) ∧
  (∀ s : State, ¬ InMem s s.src.toNat 64 → exec .blkb s = failsWith s .addrRange)

/-- RSTEP (R316). -/
def Obligations.RstepRule : Prop :=
  decode 0x00000014 = .ok .rstep ∧
  (∀ s : State, s.cfact = true → s.rnd.toNat < 64 →
    exec .rstep s = .next { s with wk := roundFn s.rnd.toNat s.wk s.w s.w1, rnd := BitVec.ofNat 7 (s.rnd.toNat + 1),
                                   code := .ok }) ∧
  (∀ s : State, (s.cfact = false ∨ 64 ≤ s.rnd.toNat) → exec .rstep s = failsWith s .roundSeq)

/-- BLKE (R317). -/
def Obligations.BlkeRule : Prop :=
  decode 0x00000015 = .ok .blke ∧
  (∀ s : State, s.cfact = true → s.rnd.toNat = 64 →
    ∃ t, exec .blke s = .next t ∧ t = { s with v := t.v, cfact := false, code := .ok } ∧
      ∀ i : Fin 8, t.v.get i = s.v.get i ^^^ s.wk.get i) ∧
  (∀ s : State, (s.cfact = false ∨ s.rnd.toNat ≠ 64) → exec .blke s = failsWith s .roundSeq)

/-- CMPR (R318), with its checks in order. W, W1 and WK are left unspecified. -/
def Obligations.CmprRule : Prop :=
  decode 0x00000016 = .ok .cmpr ∧
  (∀ s : State, s.len.toNat = 0 → exec .cmpr s = failsWith s .emptyInput) ∧
  (∀ s : State, s.len.toNat ≠ 0 → s.len.toNat % 64 ≠ 0 → exec .cmpr s = failsWith s .blockAlign) ∧
  (∀ s : State, s.len.toNat ≠ 0 → s.len.toNat % 64 = 0 → ¬ InMem s s.src.toNat s.len.toNat →
    exec .cmpr s = failsWith s .addrRange) ∧
  (∀ s : State, s.len.toNat ≠ 0 → s.len.toNat % 64 = 0 → InMem s s.src.toNat s.len.toNat →
    ∃ t, exec .cmpr s = .next t ∧
      t = { s with v := foldBlocks s.v (s.readBytes s.src.toNat s.len.toNat),
                   result := BitVec.ofNat 64 (s.len.toNat / 64), cfact := false, rnd := 0, code := .ok,
                   w := t.w, w1 := t.w1, wk := t.wk, draws := t.draws })

/-- HASH (R357). W, W1 and WK are left unspecified. -/
def Obligations.HashRule : Prop :=
  decode 0x00000020 = .ok .hash ∧
  (∀ s : State, InMem s s.src.toNat s.len.toNat → InMem s s.dst.toNat 32 →
    ∃ t, exec .hash s = .next t ∧
      t = { s with mem := t.mem, result := BitVec.ofNat 64 (padLen s.len.toNat), cfact := false, rnd := 0, code := .ok,
                   w := t.w, w1 := t.w1, wk := t.wk, draws := t.draws } ∧
      Stores s.mem t.mem s.dst.toNat (sm3 (s.readBytes s.src.toNat s.len.toNat))) ∧
  (∀ s : State, (¬ InMem s s.src.toNat s.len.toNat ∨ ¬ InMem s s.dst.toNat 32) →
    exec .hash s = failsWith s .addrRange)

/-- HASHX (R358). W, W1 and WK are left unspecified. -/
def Obligations.HashxRule : Prop :=
  decode 0x00000021 = .ok .hashx ∧
  (∀ s : State, InMem s s.src.toNat s.len.toNat → InMem s s.dst.toNat 64 →
    ∃ t, exec .hashx s = .next t ∧
      t = { s with mem := t.mem, result := BitVec.ofNat 64 (padLen s.len.toNat), cfact := false, rnd := 0, code := .ok,
                   w := t.w, w1 := t.w1, wk := t.wk, draws := t.draws } ∧
      Stores s.mem t.mem s.dst.toNat (hexBytes (sm3 (s.readBytes s.src.toNat s.len.toNat)))) ∧
  (∀ s : State, (¬ InMem s s.src.toNat s.len.toNat ∨ ¬ InMem s s.dst.toNat 64) →
    exec .hashx s = failsWith s .addrRange)

/-- STAF (R359), and STAF followed by STST gives the bytes of HASH: both runs start in `s`, so they meet the same draws.
W, W1 and WK are left unspecified. -/
def Obligations.StafRule : Prop :=
  decode 0x00000022 = .ok .staf ∧
  (∀ s : State, InMem s s.src.toNat s.len.toNat →
    ∃ t, exec .staf s = .next t ∧
      t = { s with v := foldBlocks iv (padMsg (s.readBytes s.src.toNat s.len.toNat)),
                   result := BitVec.ofNat 64 (padLen s.len.toNat), cfact := false, rnd := 0, code := .ok,
                   w := t.w, w1 := t.w1, wk := t.wk, draws := t.draws }) ∧
  (∀ s : State, ¬ InMem s s.src.toNat s.len.toNat → exec .staf s = failsWith s .addrRange) ∧
  (∀ s : State, InMem s s.src.toNat s.len.toNat → InMem s s.dst.toNat 32 →
    ∃ t u, runCommands [.staf, .stst] s = .next t ∧ exec .hash s = .next u ∧ t.mem = u.mem)

/-- MKCLR (R410): the leaf slots themselves are not cleared. -/
def Obligations.MkclrRule : Prop :=
  decode 0x00000030 = .ok .mkclr ∧
  ∀ s : State, exec .mkclr s =
    .next { s with leafCnt := 0, built := false, depth := 0, root := ⟨0, 0, 0, 0, 0, 0, 0, 0⟩, code := .ok }

/-- MKLEAF (R411), in the states of the leaf-store invariant. W, W1 and WK are left unspecified. -/
def Obligations.MkleafRule : Prop :=
  decode 0x00000031 = .ok .mkleaf ∧
  (∀ s : State, s.leafCnt.toNat = s.params.maxLeaves → exec .mkleaf s = failsWith s .capacity) ∧
  (∀ s : State, s.leafCnt.toNat < s.params.maxLeaves → ¬ InMem s s.src.toNat s.len.toNat →
    exec .mkleaf s = failsWith s .addrRange) ∧
  (∀ s : State, s.params.ok = true → s.leafCnt.toNat < s.params.maxLeaves → InMem s s.src.toNat s.len.toNat →
    ∃ t, exec .mkleaf s = .next t ∧
      t = { s with leaf := t.leaf, leafCnt := BitVec.ofNat 32 (s.leafCnt.toNat + 1), built := false,
                   result := BitVec.ofNat 64 (s.leafCnt.toNat + 1), cfact := false, rnd := 0, code := .ok,
                   w := t.w, w1 := t.w1, wk := t.wk, draws := t.draws } ∧
      t.leafList = s.leafList ++ [hashState (s.readBytes s.src.toNat s.len.toNat)])

/-- MKBLD (R412). W, W1 and WK are left unspecified. -/
def Obligations.MkbldRule : Prop :=
  decode 0x00000032 = .ok .mkbld ∧
  (∀ s : State, s.leafCnt.toNat = 0 → exec .mkbld s = failsWith s .emptyInput) ∧
  (∀ s : State, s.leafCnt.toNat ≠ 0 → ¬ InMem s s.dst.toNat 32 → exec .mkbld s = failsWith s .addrRange) ∧
  (∀ s : State, s.leafCnt.toNat ≠ 0 → InMem s s.dst.toNat 32 →
    ∃ t, exec .mkbld s = .next t ∧
      t = { s with mem := t.mem, root := treeRoot s.leafList, depth := t.depth, built := true,
                   result := BitVec.ofNat 64 (treeDepth s.leafList), cfact := false, rnd := 0, code := .ok,
                   w := t.w, w1 := t.w1, wk := t.wk, draws := t.draws } ∧
      t.depth.toNat = treeDepth s.leafList ∧
      Stores s.mem t.mem s.dst.toNat (serialize (treeRoot s.leafList)))

/-- MKPRV (R413), with its checks in order; K is DEPTH. -/
def Obligations.MkprvRule : Prop :=
  decode 0x00000033 = .ok .mkprv ∧
  (∀ s : State, s.built = false → exec .mkprv s = failsWith s .notBuilt) ∧
  (∀ s : State, s.built = true → ¬ InMem s s.dst.toNat (8 + 32 * s.depth.toNat) →
    exec .mkprv s = failsWith s .addrRange) ∧
  (∀ s : State, s.built = true → InMem s s.dst.toNat (8 + 32 * s.depth.toNat) → s.leafCnt.toNat ≤ s.aux.toNat →
    exec .mkprv s = failsWith s .notFound) ∧
  (∀ s : State, s.built = true → InMem s s.dst.toNat (8 + 32 * s.depth.toNat) → s.aux.toNat < s.leafCnt.toNat →
    ∃ t, exec .mkprv s = .next t ∧
      t = { s with mem := t.mem, result := BitVec.ofNat 64 (8 + 32 * s.depth.toNat), code := .ok } ∧
      Stores s.mem t.mem s.dst.toNat
        (unbe32 (BitVec.ofNat 32 s.aux.toNat) ++ unbe32 (BitVec.ofNat 32 s.depth.toNat) ++
          (proofSiblings (levels s.leafList) s.depth.toNat s.aux.toNat).flatMap serialize))

/-- MKPRH (R414), with its checks in order; `h` is the target hash at SRC. The 32 draws of its bytes are the model's own
count (assumption 3). -/
def Obligations.MkprhRule : Prop :=
  decode 0x00000034 = .ok .mkprh ∧
  (∀ s : State, s.built = false → exec .mkprh s = failsWith s .notBuilt) ∧
  (∀ s : State, s.built = true → (¬ InMem s s.src.toNat 32 ∨ ¬ InMem s s.dst.toNat (8 + 32 * s.depth.toNat)) →
    exec .mkprh s = failsWith s .addrRange) ∧
  (∀ (s : State) (h : Words8), s.built = true → InMem s s.src.toNat 32 →
    InMem s s.dst.toNat (8 + 32 * s.depth.toNat) → h = unserialize (s.readBytes s.src.toNat 32) →
    ((∀ i < s.leafCnt.toNat, s.leafAt i ≠ h) →
      exec .mkprh s = .next { s with code := .notFound, err := true, draws := s.draws + 32 }) ∧
    (∀ i j, i < j → j < s.leafCnt.toNat → s.leafAt i = h → s.leafAt j = h →
      exec .mkprh s = .next { s with code := .duplicateLeaf, err := true, draws := s.draws + 32 }) ∧
    (∀ i, i < s.leafCnt.toNat → s.leafAt i = h → (∀ j < s.leafCnt.toNat, s.leafAt j = h → j = i) →
      ∃ t, exec .mkprh s = .next t ∧
        t = { s with mem := t.mem, result := BitVec.ofNat 64 (8 + 32 * s.depth.toNat), code := .ok,
                     draws := t.draws } ∧
        Stores s.mem t.mem s.dst.toNat
          (unbe32 (BitVec.ofNat 32 i) ++ unbe32 (BitVec.ofNat 32 s.depth.toNat) ++
            (proofSiblings (levels s.leafList) s.depth.toNat i).flatMap serialize)))

/-- MKVFY (R420), with its checks in order; K and the index are the header's words. Which draw each byte read takes is the
model's own count (assumption 3). W, W1 and WK are left unspecified. -/
def Obligations.MkvfyRule : Prop :=
  decode 0x00000035 = .ok .mkvfy ∧
  (∀ s : State, (¬ InMem s s.src.toNat 32 ∨ ¬ InMem s s.ptr2.toNat 8 ∨ ¬ InMem s s.dst.toNat 32) →
    exec .mkvfy s = failsWith s .addrRange) ∧
  (∀ s : State, InMem s s.src.toNat 32 → InMem s s.ptr2.toNat 8 → InMem s s.dst.toNat 32 →
    (32 < s.headerDepth →
      exec .mkvfy s = .next { s with code := .badProof, err := true, draws := s.draws + 72 }) ∧
    (s.headerDepth ≤ 32 → ¬ InMem s (s.ptr2.toNat + 8) (32 * s.headerDepth) →
      exec .mkvfy s = .next { s with code := .addrRange, err := true, draws := s.draws + 72 }) ∧
    (s.headerDepth ≤ 32 → InMem s (s.ptr2.toNat + 8) (32 * s.headerDepth) →
      ∃ t, exec .mkvfy s = .next t ∧
        t = { s with result := t.result, cfact := false, rnd := 0, code := .ok,
                     w := t.w, w1 := t.w1, wk := t.wk, draws := t.draws } ∧
        t.result = if verifyProof (unserialize (s.readBytes s.src.toNat 32)) s.headerIndex s.headerDepth
          (s.proofAt s.headerDepth) (unserialize ((s.draw 40).readBytes s.dst.toNat 32)) = true then 1 else 0))

/-- LEFG (R452), with its checks in order: V is unchanged and RESULT is T. The suffix's bytes take the draws after the
digest's (assumption 3). W, W1 and WK are left unspecified. -/
def Obligations.LefgRule : Prop :=
  decode 0x00000040 = .ok .lefg ∧
  (∀ s : State, 2 ^ 61 ≤ padLen s.aux.toNat + s.len.toNat → exec .lefg s = failsWith s .lengthOverflow) ∧
  (∀ s : State, padLen s.aux.toNat + s.len.toNat < 2 ^ 61 →
    (¬ InMem s s.ptr2.toNat 32 ∨ ¬ InMem s s.src.toNat s.len.toNat ∨ ¬ InMem s s.dst.toNat 32) →
    exec .lefg s = failsWith s .addrRange) ∧
  (∀ s : State, padLen s.aux.toNat + s.len.toNat < 2 ^ 61 → InMem s s.ptr2.toNat 32 →
    InMem s s.src.toNat s.len.toNat → InMem s s.dst.toNat 32 →
    ∃ t, exec .lefg s = .next t ∧
      t = { s with mem := t.mem, result := BitVec.ofNat 64 (padLen s.aux.toNat + s.len.toNat), cfact := false, rnd := 0,
                   code := .ok, w := t.w, w1 := t.w1, wk := t.wk, draws := t.draws } ∧
      Stores s.mem t.mem s.dst.toNat (serialize (foldBlocks (unserialize (s.readBytes s.ptr2.toNat 32))
        (padWith ((s.draw 32).readBytes s.src.toNat s.len.toNat) (padLen s.aux.toNat + s.len.toNat)))))

/-! ### The datapath's functions -/

/-- R203: rotation as the rule computes it, on integers; a multiple of 32 is the identity. -/
def Obligations.RotationFormula : Prop :=
  ∀ (x : Word) (n : Nat),
    (rotl x n).toNat =
      if n % 32 = 0 then x.toNat else x.toNat * 2 ^ (n % 32) % 2 ^ 32 + x.toNat / 2 ^ (32 - n % 32)

/-- R200-R202: packing and unpacking, as sums and quotients of integers, and that unpacking then packing is the identity. -/
def Obligations.PackingFormulas : Prop :=
  (∀ a b c d : Byte,
    (be32 a b c d).toNat = a.toNat * 2 ^ 24 + b.toNat * 2 ^ 16 + c.toNat * 2 ^ 8 + d.toNat) ∧
  (∀ x : Word, (unbe32 x).map BitVec.toNat =
    [x.toNat / 2 ^ 24, x.toNat / 2 ^ 16 % 256, x.toNat / 2 ^ 8 % 256, x.toNat % 256]) ∧
  (∀ x : Word, wordAt (unbe32 x) 0 = x) ∧
  (∀ n < 2 ^ 64, (be64 n).length = 8 ∧
    ((be64 n).foldl (fun acc b => acc * 256 + b.toNat) 0) = n)

/-- R207-R209: below round 16 FF and GG are the XOR of their arguments; from round 16 on each bit of FF is the majority of
the three bits, and each bit of GG is y's where x's is 1 and z's where it is 0. -/
def Obligations.BooleanFunctions : Prop :=
  ∀ (x y z : Word) (j k : Nat), k < 32 →
    (j < 16 → ff x y z j = x ^^^ y ^^^ z ∧ gg x y z j = x ^^^ y ^^^ z) ∧
    (16 ≤ j →
      (ff x y z j).getLsbD k =
        decide (2 ≤ (x.getLsbD k).toNat + (y.getLsbD k).toNat + (z.getLsbD k).toNat) ∧
      (gg x y z j).getLsbD k = if x.getLsbD k = true then y.getLsbD k else z.getLsbD k)

/-- R206, R210: the round-constant ROM, as the spec lists it, holds rotl(T(j), j mod 32), the term that a round adds. -/
def Obligations.RoundConstantRom : Prop :=
  trRom.length = 64 ∧ ∀ j < 64, trRom[j]? = some (tr j) ∧
    tr j = rotl (if j < 16 then 0x79CC4519 else 0x7A879D8A) (j % 32)

/-- R254: the padding's properties (a) to (f). -/
def Obligations.PaddingProperties : Prop :=
  (∀ n, padLen n % 64 = 0 ∧ 9 ≤ padLen n - n ∧ padLen n - n ≤ 72 ∧ n + 9 ≤ padLen n ∧ 64 ≤ padLen n ∧
    (n % 64 = 55 → padLen n - n = 9) ∧ (n % 64 = 56 → padLen n - n = 72)) ∧
  ∀ (m : List Byte) (lf : Nat), (padWith m lf).length = padLen m.length ∧ (padWith m lf).take m.length = m ∧
    padMsg m = m ++ padTail m.length

/-- R351: serializing gives 32 bytes, byte 4i + k of which is byte k of unbe32(V[i]), and unserializing is its inverse both
ways. -/
def Obligations.SerializerInverse : Prop :=
  (∀ v : Words8, (serialize v).length = 32 ∧ unserialize (serialize v) = v) ∧
  (∀ (v : Words8) (i : Fin 8) (k : Nat), k < 4 → (serialize v)[4 * i.val + k]? = (unbe32 (v.get i))[k]?) ∧
  ∀ d : List Byte, d.length = 32 → serialize (unserialize d) = d

/-- R352: two characters a byte, high nibble first, each '0' to '9' or 'A' to 'F'. -/
def Obligations.HexSerializer : Prop :=
  ∀ (d : List Byte) (i : Nat) (b : Byte), d[i]? = some b →
    (hexBytes d).length = 2 * d.length ∧
    ∃ hi lo : Byte, (hexBytes d)[2 * i]? = some hi ∧ (hexBytes d)[2 * i + 1]? = some lo ∧
      hi.toNat = b.toNat / 16 + (if b.toNat / 16 < 10 then 0x30 else 0x37) ∧
      lo.toNat = b.toNat % 16 + (if b.toNat % 16 < 10 then 0x30 else 0x37)

/-- R280, R281: the recurrence, at every index of the schedule of every block. -/
def Obligations.ScheduleRecurrence : Prop :=
  ∀ b : List Byte,
    (∀ j : Nat, j < 16 → (expand b)[j]! = wordAt b j) ∧
    (∀ j : Nat, 16 ≤ j → j < 68 → (expand b)[j]! =
      p1 ((expand b)[j - 16]! ^^^ (expand b)[j - 9]! ^^^ rotl (expand b)[j - 3]! 15)
        ^^^ rotl (expand b)[j - 13]! 7 ^^^ (expand b)[j - 6]!) ∧
    (∀ j : Nat, j < 64 → (mixing (expand b))[j]! = (expand b)[j]! ^^^ (expand b)[j + 4]!)

/-! ### Headlines -/

/-- R319: BLKB, then 64 RSTEP with any of the commands that are not abandoning in between, then BLKE, leaves V = CF(V, B),
RND = 64 and CFACT = 0; and CMPR of the one block gives the same V. Both read the block in `s`, so an unwritten byte of it is
the same draw (assumption 3). -/
def Obligations.RoundSequenceEquivalence : Prop :=
  (∀ (s : State) (cs : List Instr), InMem s s.src.toNat 64 → (∀ c ∈ cs, c = .rstep ∨ c ∈ quietCommands) →
    cs.count .rstep = 64 →
    ∃ t, runCommands (.blkb :: cs ++ [.blke]) s = .next t ∧ t.v = cf s.v (s.readBytes s.src.toNat 64) ∧
      t.rnd.toNat = 64 ∧ t.cfact = false ∧ t.code = .ok) ∧
  (∀ s : State, InMem s s.src.toNat 64 → s.len.toNat = 64 →
    ∃ t, exec .cmpr s = .next t ∧ t.v = cf s.v (s.readBytes s.src.toNat 64))

/-- R312, R607: compressing two whole-block sequences one after the other is compressing their concatenation. -/
def Obligations.FoldOfConcatenation : Prop :=
  ∀ (v : Words8) (x y : List Byte), x.length % 64 = 0 → foldBlocks v (x ++ y) = foldBlocks (foldBlocks v x) y

/-- R451: the forged digest is the digest of the extended message, for every message, suffix and length in range. -/
def Obligations.LengthExtensionCorrect : Prop :=
  ∀ (m suffix : List Byte), 8 * (padLen m.length + suffix.length) < 2 ^ 64 →
    forge (sm3 m) m.length suffix =
      (sm3 (m ++ padTail m.length ++ suffix), (m ++ padTail m.length ++ suffix).length)

/-- R403: the depth of a tree over n leaves is ceil(log2 n), at most 32 for fewer than 2^32 leaves, and its last level is
the root alone. -/
def Obligations.TreeDepthIsCeilLog : Prop :=
  ∀ leaves : List Words8, leaves ≠ [] →
    treeDepth leaves = Nat.clog 2 leaves.length ∧
    (leaves.length < 2 ^ 32 → treeDepth leaves ≤ 32) ∧
    (levels leaves)[treeDepth leaves]? = some [treeRoot leaves]

/-- R407 (a): the proof of every leaf of every tree verifies. -/
def Obligations.MerkleProofsVerify : Prop :=
  ∀ (leaves : List Words8) (i : Nat) (h : Words8), leaves[i]? = some h →
    verifyProof h i (treeDepth leaves) (proofSiblings (levels leaves) (treeDepth leaves) i) (treeRoot leaves) = true

/-- R407 (b): the duplicate-leaf ambiguity, kept as the source has it: an odd tree of at least three leaves and the tree with
its last leaf repeated have the same root. The one-leaf tree, of which R403 makes it false, is left out (assumption 18). -/
def Obligations.DuplicateLeafAmbiguity : Prop :=
  ∀ (leaves : List Words8) (x : Words8), leaves ≠ [] → leaves.length % 2 = 0 →
    treeRoot (leaves ++ [x]) = treeRoot (leaves ++ [x, x])
end

