-- ==== Sys2Proof/Laws/Functions.lean ====
section
/-! SUPPORT. Sizes of what the datapath's functions give. -/

namespace Sys2Proof.Machine

@[simp] theorem unbe32_length (x : Word) : (unbe32 x).length = 4 := rfl

@[simp] theorem be64_length (n : Nat) : (be64 n).length = 8 := by simp [be64]

@[simp] theorem serialize_length (v : Words8) : (serialize v).length = 32 := rfl

@[simp] theorem sm3_length (m : List Byte) : (sm3 m).length = 32 := rfl

@[simp] theorem hexBytes_length (d : List Byte) : (hexBytes d).length = 2 * d.length := by
  induction d with
  | nil => rfl
  | cons b d ih => simp only [hexBytes, List.flatMap_cons, List.length_append, List.length_cons] at *; simp; omega

/-- A padded message has at least the message, the 0x80 byte and the length field. -/
theorem add_nine_le_padLen (n : Nat) : n + 9 ≤ padLen n := by unfold padLen; omega

@[simp] theorem padTail_length (l : Nat) : (padTail l).length = padLen l - l := by
  have := add_nine_le_padLen l
  simp [padTail, padZeros]; omega

@[simp] theorem padWith_length (m : List Byte) (lf : Nat) : (padWith m lf).length = padLen m.length := by
  have := add_nine_le_padLen m.length
  simp [padWith, padZeros]; omega

@[simp] theorem proofSiblings_length (lvs : List (List Words8)) (k i : Nat) : (proofSiblings lvs k i).length = k := by
  simp [proofSiblings]

theorem flatMap_serialize_length (l : List Words8) : (l.flatMap serialize).length = 32 * l.length := by
  induction l with
  | nil => rfl
  | cons x l ih => simp only [List.flatMap_cons, List.length_append, serialize_length, ih, List.length_cons]; omega

@[simp] theorem proofBytes_length (i k : Nat) (l : List Words8) : (proofBytes i k l).length = 8 + 32 * l.length := by
  simp only [proofBytes, List.length_append, unbe32_length, flatMap_serialize_length]

@[simp] theorem nextLevel_length : ∀ lv : List Words8, (nextLevel lv).length = (lv.length + 1) / 2
  | [] => rfl
  | [_] => by simp [nextLevel]
  | _ :: _ :: rest => by simp [nextLevel, nextLevel_length rest]; omega

end Sys2Proof.Machine
end

