-- ==== Sys2Proof/Laws/HostAccess.lean ====
section
/-! SUPPORT. What an admitted MMIO access does, said once. -/

namespace Sys2Proof.Machine

theorem mmioRefusal_aligned {off : Nat} (h : off < 4096) (ha : off % 4 = 0) : mmioRefusal 32 off = none := by
  simp [mmioRefusal, ha, h]

/-- A read returns the register at the offset and changes only the record of reads (10_state.md R72 (e)). -/
theorem hostStep_mmioRead {off : Nat} (s : State) (h : off < 4096) (ha : off % 4 = 0) :
    hostStep (.mmioRead 32 off) s =
      .next { s with hostReads := .reg off (s.readReg (Reg.ofOffset off)) :: s.hostReads } := by
  simp [hostStep, mmioRefusal_aligned h ha, State.logRead]

/-- A write stores through the register at the offset, and a write to CMD then runs the word (10_state.md R53). -/
theorem hostStep_mmioWrite {off : Nat} (s : State) (x : Word) (h : off < 4096) (ha : off % 4 = 0) :
    hostStep (.mmioWrite 32 off x) s = mmioStore off x s := by
  simp [hostStep, mmioRefusal_aligned h ha]

end Sys2Proof.Machine
end

