-- ==== Sys2Proof/Laws/State.lean ====
section
/-! SUPPORT. One lemma per field of State for each update of Machine/Ops.lean, Machine/Registers.lean and
Machine/HostAccess.lean, so that no proof unfolds a record update. -/

namespace Sys2Proof.Machine

variable (s : State)

/-! `draw` -/

@[simp] theorem State.draw_v (n : Nat) : (s.draw n).v = s.v := rfl
@[simp] theorem State.draw_wk (n : Nat) : (s.draw n).wk = s.wk := rfl
@[simp] theorem State.draw_w (n : Nat) : (s.draw n).w = s.w := rfl
@[simp] theorem State.draw_w1 (n : Nat) : (s.draw n).w1 = s.w1 := rfl
@[simp] theorem State.draw_rnd (n : Nat) : (s.draw n).rnd = s.rnd := rfl
@[simp] theorem State.draw_cfact (n : Nat) : (s.draw n).cfact = s.cfact := rfl
@[simp] theorem State.draw_strat (n : Nat) : (s.draw n).strat = s.strat := rfl
@[simp] theorem State.draw_src (n : Nat) : (s.draw n).src = s.src := rfl
@[simp] theorem State.draw_len (n : Nat) : (s.draw n).len = s.len := rfl
@[simp] theorem State.draw_dst (n : Nat) : (s.draw n).dst = s.dst := rfl
@[simp] theorem State.draw_ptr2 (n : Nat) : (s.draw n).ptr2 = s.ptr2 := rfl
@[simp] theorem State.draw_aux (n : Nat) : (s.draw n).aux = s.aux := rfl
@[simp] theorem State.draw_result (n : Nat) : (s.draw n).result = s.result := rfl
@[simp] theorem State.draw_code (n : Nat) : (s.draw n).code = s.code := rfl
@[simp] theorem State.draw_err (n : Nat) : (s.draw n).err = s.err := rfl
@[simp] theorem State.draw_cmd (n : Nat) : (s.draw n).cmd = s.cmd := rfl
@[simp] theorem State.draw_leaf (n : Nat) : (s.draw n).leaf = s.leaf := rfl
@[simp] theorem State.draw_leafCnt (n : Nat) : (s.draw n).leafCnt = s.leafCnt := rfl
@[simp] theorem State.draw_built (n : Nat) : (s.draw n).built = s.built := rfl
@[simp] theorem State.draw_depth (n : Nat) : (s.draw n).depth = s.depth := rfl
@[simp] theorem State.draw_root (n : Nat) : (s.draw n).root = s.root := rfl
@[simp] theorem State.draw_mem (n : Nat) : (s.draw n).mem = s.mem := rfl
@[simp] theorem State.draw_params (n : Nat) : (s.draw n).params = s.params := rfl
@[simp] theorem State.draw_draws (n : Nat) : (s.draw n).draws = s.draws + n := rfl
@[simp] theorem State.draw_hostQueue (n : Nat) : (s.draw n).hostQueue = s.hostQueue := rfl
@[simp] theorem State.draw_hostReads (n : Nat) : (s.draw n).hostReads = s.hostReads := rfl

/-! `writeBytes` -/

@[simp] theorem State.writeBytes_v (a : Nat) (bs : List Byte) : (s.writeBytes a bs).v = s.v := rfl
@[simp] theorem State.writeBytes_wk (a : Nat) (bs : List Byte) : (s.writeBytes a bs).wk = s.wk := rfl
@[simp] theorem State.writeBytes_w (a : Nat) (bs : List Byte) : (s.writeBytes a bs).w = s.w := rfl
@[simp] theorem State.writeBytes_w1 (a : Nat) (bs : List Byte) : (s.writeBytes a bs).w1 = s.w1 := rfl
@[simp] theorem State.writeBytes_rnd (a : Nat) (bs : List Byte) : (s.writeBytes a bs).rnd = s.rnd := rfl
@[simp] theorem State.writeBytes_cfact (a : Nat) (bs : List Byte) : (s.writeBytes a bs).cfact = s.cfact := rfl
@[simp] theorem State.writeBytes_strat (a : Nat) (bs : List Byte) : (s.writeBytes a bs).strat = s.strat := rfl
@[simp] theorem State.writeBytes_src (a : Nat) (bs : List Byte) : (s.writeBytes a bs).src = s.src := rfl
@[simp] theorem State.writeBytes_len (a : Nat) (bs : List Byte) : (s.writeBytes a bs).len = s.len := rfl
@[simp] theorem State.writeBytes_dst (a : Nat) (bs : List Byte) : (s.writeBytes a bs).dst = s.dst := rfl
@[simp] theorem State.writeBytes_ptr2 (a : Nat) (bs : List Byte) : (s.writeBytes a bs).ptr2 = s.ptr2 := rfl
@[simp] theorem State.writeBytes_aux (a : Nat) (bs : List Byte) : (s.writeBytes a bs).aux = s.aux := rfl
@[simp] theorem State.writeBytes_result (a : Nat) (bs : List Byte) : (s.writeBytes a bs).result = s.result := rfl
@[simp] theorem State.writeBytes_code (a : Nat) (bs : List Byte) : (s.writeBytes a bs).code = s.code := rfl
@[simp] theorem State.writeBytes_err (a : Nat) (bs : List Byte) : (s.writeBytes a bs).err = s.err := rfl
@[simp] theorem State.writeBytes_cmd (a : Nat) (bs : List Byte) : (s.writeBytes a bs).cmd = s.cmd := rfl
@[simp] theorem State.writeBytes_leaf (a : Nat) (bs : List Byte) : (s.writeBytes a bs).leaf = s.leaf := rfl
@[simp] theorem State.writeBytes_leafCnt (a : Nat) (bs : List Byte) : (s.writeBytes a bs).leafCnt = s.leafCnt := rfl
@[simp] theorem State.writeBytes_built (a : Nat) (bs : List Byte) : (s.writeBytes a bs).built = s.built := rfl
@[simp] theorem State.writeBytes_depth (a : Nat) (bs : List Byte) : (s.writeBytes a bs).depth = s.depth := rfl
@[simp] theorem State.writeBytes_root (a : Nat) (bs : List Byte) : (s.writeBytes a bs).root = s.root := rfl
@[simp] theorem State.writeBytes_mem (a : Nat) (bs : List Byte) : (s.writeBytes a bs).mem = s.mem.write a bs := rfl
@[simp] theorem State.writeBytes_params (a : Nat) (bs : List Byte) : (s.writeBytes a bs).params = s.params := rfl
@[simp] theorem State.writeBytes_draws (a : Nat) (bs : List Byte) : (s.writeBytes a bs).draws = s.draws := rfl
@[simp] theorem State.writeBytes_hostQueue (a : Nat) (bs : List Byte) : (s.writeBytes a bs).hostQueue = s.hostQueue := rfl
@[simp] theorem State.writeBytes_hostReads (a : Nat) (bs : List Byte) : (s.writeBytes a bs).hostReads = s.hostReads := rfl

/-! `setV` -/

@[simp] theorem State.setV_v (x : Words8) : (s.setV x).v = x := rfl
@[simp] theorem State.setV_wk (x : Words8) : (s.setV x).wk = s.wk := rfl
@[simp] theorem State.setV_w (x : Words8) : (s.setV x).w = s.w := rfl
@[simp] theorem State.setV_w1 (x : Words8) : (s.setV x).w1 = s.w1 := rfl
@[simp] theorem State.setV_rnd (x : Words8) : (s.setV x).rnd = s.rnd := rfl
@[simp] theorem State.setV_cfact (x : Words8) : (s.setV x).cfact = s.cfact := rfl
@[simp] theorem State.setV_strat (x : Words8) : (s.setV x).strat = s.strat := rfl
@[simp] theorem State.setV_src (x : Words8) : (s.setV x).src = s.src := rfl
@[simp] theorem State.setV_len (x : Words8) : (s.setV x).len = s.len := rfl
@[simp] theorem State.setV_dst (x : Words8) : (s.setV x).dst = s.dst := rfl
@[simp] theorem State.setV_ptr2 (x : Words8) : (s.setV x).ptr2 = s.ptr2 := rfl
@[simp] theorem State.setV_aux (x : Words8) : (s.setV x).aux = s.aux := rfl
@[simp] theorem State.setV_result (x : Words8) : (s.setV x).result = s.result := rfl
@[simp] theorem State.setV_code (x : Words8) : (s.setV x).code = s.code := rfl
@[simp] theorem State.setV_err (x : Words8) : (s.setV x).err = s.err := rfl
@[simp] theorem State.setV_cmd (x : Words8) : (s.setV x).cmd = s.cmd := rfl
@[simp] theorem State.setV_leaf (x : Words8) : (s.setV x).leaf = s.leaf := rfl
@[simp] theorem State.setV_leafCnt (x : Words8) : (s.setV x).leafCnt = s.leafCnt := rfl
@[simp] theorem State.setV_built (x : Words8) : (s.setV x).built = s.built := rfl
@[simp] theorem State.setV_depth (x : Words8) : (s.setV x).depth = s.depth := rfl
@[simp] theorem State.setV_root (x : Words8) : (s.setV x).root = s.root := rfl
@[simp] theorem State.setV_mem (x : Words8) : (s.setV x).mem = s.mem := rfl
@[simp] theorem State.setV_params (x : Words8) : (s.setV x).params = s.params := rfl
@[simp] theorem State.setV_draws (x : Words8) : (s.setV x).draws = s.draws := rfl
@[simp] theorem State.setV_hostQueue (x : Words8) : (s.setV x).hostQueue = s.hostQueue := rfl
@[simp] theorem State.setV_hostReads (x : Words8) : (s.setV x).hostReads = s.hostReads := rfl

/-! `setWk` -/

@[simp] theorem State.setWk_v (x : Words8) : (s.setWk x).v = s.v := rfl
@[simp] theorem State.setWk_wk (x : Words8) : (s.setWk x).wk = x := rfl
@[simp] theorem State.setWk_w (x : Words8) : (s.setWk x).w = s.w := rfl
@[simp] theorem State.setWk_w1 (x : Words8) : (s.setWk x).w1 = s.w1 := rfl
@[simp] theorem State.setWk_rnd (x : Words8) : (s.setWk x).rnd = s.rnd := rfl
@[simp] theorem State.setWk_cfact (x : Words8) : (s.setWk x).cfact = s.cfact := rfl
@[simp] theorem State.setWk_strat (x : Words8) : (s.setWk x).strat = s.strat := rfl
@[simp] theorem State.setWk_src (x : Words8) : (s.setWk x).src = s.src := rfl
@[simp] theorem State.setWk_len (x : Words8) : (s.setWk x).len = s.len := rfl
@[simp] theorem State.setWk_dst (x : Words8) : (s.setWk x).dst = s.dst := rfl
@[simp] theorem State.setWk_ptr2 (x : Words8) : (s.setWk x).ptr2 = s.ptr2 := rfl
@[simp] theorem State.setWk_aux (x : Words8) : (s.setWk x).aux = s.aux := rfl
@[simp] theorem State.setWk_result (x : Words8) : (s.setWk x).result = s.result := rfl
@[simp] theorem State.setWk_code (x : Words8) : (s.setWk x).code = s.code := rfl
@[simp] theorem State.setWk_err (x : Words8) : (s.setWk x).err = s.err := rfl
@[simp] theorem State.setWk_cmd (x : Words8) : (s.setWk x).cmd = s.cmd := rfl
@[simp] theorem State.setWk_leaf (x : Words8) : (s.setWk x).leaf = s.leaf := rfl
@[simp] theorem State.setWk_leafCnt (x : Words8) : (s.setWk x).leafCnt = s.leafCnt := rfl
@[simp] theorem State.setWk_built (x : Words8) : (s.setWk x).built = s.built := rfl
@[simp] theorem State.setWk_depth (x : Words8) : (s.setWk x).depth = s.depth := rfl
@[simp] theorem State.setWk_root (x : Words8) : (s.setWk x).root = s.root := rfl
@[simp] theorem State.setWk_mem (x : Words8) : (s.setWk x).mem = s.mem := rfl
@[simp] theorem State.setWk_params (x : Words8) : (s.setWk x).params = s.params := rfl
@[simp] theorem State.setWk_draws (x : Words8) : (s.setWk x).draws = s.draws := rfl
@[simp] theorem State.setWk_hostQueue (x : Words8) : (s.setWk x).hostQueue = s.hostQueue := rfl
@[simp] theorem State.setWk_hostReads (x : Words8) : (s.setWk x).hostReads = s.hostReads := rfl

/-! `setSchedule` -/

@[simp] theorem State.setSchedule_v (x : Vector Word 68) (y : Vector Word 64) : (s.setSchedule x y).v = s.v := rfl
@[simp] theorem State.setSchedule_wk (x : Vector Word 68) (y : Vector Word 64) : (s.setSchedule x y).wk = s.wk := rfl
@[simp] theorem State.setSchedule_w (x : Vector Word 68) (y : Vector Word 64) : (s.setSchedule x y).w = x := rfl
@[simp] theorem State.setSchedule_w1 (x : Vector Word 68) (y : Vector Word 64) : (s.setSchedule x y).w1 = y := rfl
@[simp] theorem State.setSchedule_rnd (x : Vector Word 68) (y : Vector Word 64) : (s.setSchedule x y).rnd = s.rnd := rfl
@[simp] theorem State.setSchedule_cfact (x : Vector Word 68) (y : Vector Word 64) : (s.setSchedule x y).cfact = s.cfact := rfl
@[simp] theorem State.setSchedule_strat (x : Vector Word 68) (y : Vector Word 64) : (s.setSchedule x y).strat = s.strat := rfl
@[simp] theorem State.setSchedule_src (x : Vector Word 68) (y : Vector Word 64) : (s.setSchedule x y).src = s.src := rfl
@[simp] theorem State.setSchedule_len (x : Vector Word 68) (y : Vector Word 64) : (s.setSchedule x y).len = s.len := rfl
@[simp] theorem State.setSchedule_dst (x : Vector Word 68) (y : Vector Word 64) : (s.setSchedule x y).dst = s.dst := rfl
@[simp] theorem State.setSchedule_ptr2 (x : Vector Word 68) (y : Vector Word 64) : (s.setSchedule x y).ptr2 = s.ptr2 := rfl
@[simp] theorem State.setSchedule_aux (x : Vector Word 68) (y : Vector Word 64) : (s.setSchedule x y).aux = s.aux := rfl
@[simp] theorem State.setSchedule_result (x : Vector Word 68) (y : Vector Word 64) : (s.setSchedule x y).result = s.result := rfl
@[simp] theorem State.setSchedule_code (x : Vector Word 68) (y : Vector Word 64) : (s.setSchedule x y).code = s.code := rfl
@[simp] theorem State.setSchedule_err (x : Vector Word 68) (y : Vector Word 64) : (s.setSchedule x y).err = s.err := rfl
@[simp] theorem State.setSchedule_cmd (x : Vector Word 68) (y : Vector Word 64) : (s.setSchedule x y).cmd = s.cmd := rfl
@[simp] theorem State.setSchedule_leaf (x : Vector Word 68) (y : Vector Word 64) : (s.setSchedule x y).leaf = s.leaf := rfl
@[simp] theorem State.setSchedule_leafCnt (x : Vector Word 68) (y : Vector Word 64) : (s.setSchedule x y).leafCnt = s.leafCnt := rfl
@[simp] theorem State.setSchedule_built (x : Vector Word 68) (y : Vector Word 64) : (s.setSchedule x y).built = s.built := rfl
@[simp] theorem State.setSchedule_depth (x : Vector Word 68) (y : Vector Word 64) : (s.setSchedule x y).depth = s.depth := rfl
@[simp] theorem State.setSchedule_root (x : Vector Word 68) (y : Vector Word 64) : (s.setSchedule x y).root = s.root := rfl
@[simp] theorem State.setSchedule_mem (x : Vector Word 68) (y : Vector Word 64) : (s.setSchedule x y).mem = s.mem := rfl
@[simp] theorem State.setSchedule_params (x : Vector Word 68) (y : Vector Word 64) : (s.setSchedule x y).params = s.params := rfl
@[simp] theorem State.setSchedule_draws (x : Vector Word 68) (y : Vector Word 64) : (s.setSchedule x y).draws = s.draws := rfl
@[simp] theorem State.setSchedule_hostQueue (x : Vector Word 68) (y : Vector Word 64) : (s.setSchedule x y).hostQueue = s.hostQueue := rfl
@[simp] theorem State.setSchedule_hostReads (x : Vector Word 68) (y : Vector Word 64) : (s.setSchedule x y).hostReads = s.hostReads := rfl

/-! `setRnd` -/

@[simp] theorem State.setRnd_v (n : BitVec 7) : (s.setRnd n).v = s.v := rfl
@[simp] theorem State.setRnd_wk (n : BitVec 7) : (s.setRnd n).wk = s.wk := rfl
@[simp] theorem State.setRnd_w (n : BitVec 7) : (s.setRnd n).w = s.w := rfl
@[simp] theorem State.setRnd_w1 (n : BitVec 7) : (s.setRnd n).w1 = s.w1 := rfl
@[simp] theorem State.setRnd_rnd (n : BitVec 7) : (s.setRnd n).rnd = n := rfl
@[simp] theorem State.setRnd_cfact (n : BitVec 7) : (s.setRnd n).cfact = s.cfact := rfl
@[simp] theorem State.setRnd_strat (n : BitVec 7) : (s.setRnd n).strat = s.strat := rfl
@[simp] theorem State.setRnd_src (n : BitVec 7) : (s.setRnd n).src = s.src := rfl
@[simp] theorem State.setRnd_len (n : BitVec 7) : (s.setRnd n).len = s.len := rfl
@[simp] theorem State.setRnd_dst (n : BitVec 7) : (s.setRnd n).dst = s.dst := rfl
@[simp] theorem State.setRnd_ptr2 (n : BitVec 7) : (s.setRnd n).ptr2 = s.ptr2 := rfl
@[simp] theorem State.setRnd_aux (n : BitVec 7) : (s.setRnd n).aux = s.aux := rfl
@[simp] theorem State.setRnd_result (n : BitVec 7) : (s.setRnd n).result = s.result := rfl
@[simp] theorem State.setRnd_code (n : BitVec 7) : (s.setRnd n).code = s.code := rfl
@[simp] theorem State.setRnd_err (n : BitVec 7) : (s.setRnd n).err = s.err := rfl
@[simp] theorem State.setRnd_cmd (n : BitVec 7) : (s.setRnd n).cmd = s.cmd := rfl
@[simp] theorem State.setRnd_leaf (n : BitVec 7) : (s.setRnd n).leaf = s.leaf := rfl
@[simp] theorem State.setRnd_leafCnt (n : BitVec 7) : (s.setRnd n).leafCnt = s.leafCnt := rfl
@[simp] theorem State.setRnd_built (n : BitVec 7) : (s.setRnd n).built = s.built := rfl
@[simp] theorem State.setRnd_depth (n : BitVec 7) : (s.setRnd n).depth = s.depth := rfl
@[simp] theorem State.setRnd_root (n : BitVec 7) : (s.setRnd n).root = s.root := rfl
@[simp] theorem State.setRnd_mem (n : BitVec 7) : (s.setRnd n).mem = s.mem := rfl
@[simp] theorem State.setRnd_params (n : BitVec 7) : (s.setRnd n).params = s.params := rfl
@[simp] theorem State.setRnd_draws (n : BitVec 7) : (s.setRnd n).draws = s.draws := rfl
@[simp] theorem State.setRnd_hostQueue (n : BitVec 7) : (s.setRnd n).hostQueue = s.hostQueue := rfl
@[simp] theorem State.setRnd_hostReads (n : BitVec 7) : (s.setRnd n).hostReads = s.hostReads := rfl

/-! `setCfact` -/

@[simp] theorem State.setCfact_v (x : Bool) : (s.setCfact x).v = s.v := rfl
@[simp] theorem State.setCfact_wk (x : Bool) : (s.setCfact x).wk = s.wk := rfl
@[simp] theorem State.setCfact_w (x : Bool) : (s.setCfact x).w = s.w := rfl
@[simp] theorem State.setCfact_w1 (x : Bool) : (s.setCfact x).w1 = s.w1 := rfl
@[simp] theorem State.setCfact_rnd (x : Bool) : (s.setCfact x).rnd = s.rnd := rfl
@[simp] theorem State.setCfact_cfact (x : Bool) : (s.setCfact x).cfact = x := rfl
@[simp] theorem State.setCfact_strat (x : Bool) : (s.setCfact x).strat = s.strat := rfl
@[simp] theorem State.setCfact_src (x : Bool) : (s.setCfact x).src = s.src := rfl
@[simp] theorem State.setCfact_len (x : Bool) : (s.setCfact x).len = s.len := rfl
@[simp] theorem State.setCfact_dst (x : Bool) : (s.setCfact x).dst = s.dst := rfl
@[simp] theorem State.setCfact_ptr2 (x : Bool) : (s.setCfact x).ptr2 = s.ptr2 := rfl
@[simp] theorem State.setCfact_aux (x : Bool) : (s.setCfact x).aux = s.aux := rfl
@[simp] theorem State.setCfact_result (x : Bool) : (s.setCfact x).result = s.result := rfl
@[simp] theorem State.setCfact_code (x : Bool) : (s.setCfact x).code = s.code := rfl
@[simp] theorem State.setCfact_err (x : Bool) : (s.setCfact x).err = s.err := rfl
@[simp] theorem State.setCfact_cmd (x : Bool) : (s.setCfact x).cmd = s.cmd := rfl
@[simp] theorem State.setCfact_leaf (x : Bool) : (s.setCfact x).leaf = s.leaf := rfl
@[simp] theorem State.setCfact_leafCnt (x : Bool) : (s.setCfact x).leafCnt = s.leafCnt := rfl
@[simp] theorem State.setCfact_built (x : Bool) : (s.setCfact x).built = s.built := rfl
@[simp] theorem State.setCfact_depth (x : Bool) : (s.setCfact x).depth = s.depth := rfl
@[simp] theorem State.setCfact_root (x : Bool) : (s.setCfact x).root = s.root := rfl
@[simp] theorem State.setCfact_mem (x : Bool) : (s.setCfact x).mem = s.mem := rfl
@[simp] theorem State.setCfact_params (x : Bool) : (s.setCfact x).params = s.params := rfl
@[simp] theorem State.setCfact_draws (x : Bool) : (s.setCfact x).draws = s.draws := rfl
@[simp] theorem State.setCfact_hostQueue (x : Bool) : (s.setCfact x).hostQueue = s.hostQueue := rfl
@[simp] theorem State.setCfact_hostReads (x : Bool) : (s.setCfact x).hostReads = s.hostReads := rfl

/-! `setResult` -/

@[simp] theorem State.setResult_v (n : Nat) : (s.setResult n).v = s.v := rfl
@[simp] theorem State.setResult_wk (n : Nat) : (s.setResult n).wk = s.wk := rfl
@[simp] theorem State.setResult_w (n : Nat) : (s.setResult n).w = s.w := rfl
@[simp] theorem State.setResult_w1 (n : Nat) : (s.setResult n).w1 = s.w1 := rfl
@[simp] theorem State.setResult_rnd (n : Nat) : (s.setResult n).rnd = s.rnd := rfl
@[simp] theorem State.setResult_cfact (n : Nat) : (s.setResult n).cfact = s.cfact := rfl
@[simp] theorem State.setResult_strat (n : Nat) : (s.setResult n).strat = s.strat := rfl
@[simp] theorem State.setResult_src (n : Nat) : (s.setResult n).src = s.src := rfl
@[simp] theorem State.setResult_len (n : Nat) : (s.setResult n).len = s.len := rfl
@[simp] theorem State.setResult_dst (n : Nat) : (s.setResult n).dst = s.dst := rfl
@[simp] theorem State.setResult_ptr2 (n : Nat) : (s.setResult n).ptr2 = s.ptr2 := rfl
@[simp] theorem State.setResult_aux (n : Nat) : (s.setResult n).aux = s.aux := rfl
@[simp] theorem State.setResult_result (n : Nat) : (s.setResult n).result = BitVec.ofNat 64 n := rfl
@[simp] theorem State.setResult_code (n : Nat) : (s.setResult n).code = s.code := rfl
@[simp] theorem State.setResult_err (n : Nat) : (s.setResult n).err = s.err := rfl
@[simp] theorem State.setResult_cmd (n : Nat) : (s.setResult n).cmd = s.cmd := rfl
@[simp] theorem State.setResult_leaf (n : Nat) : (s.setResult n).leaf = s.leaf := rfl
@[simp] theorem State.setResult_leafCnt (n : Nat) : (s.setResult n).leafCnt = s.leafCnt := rfl
@[simp] theorem State.setResult_built (n : Nat) : (s.setResult n).built = s.built := rfl
@[simp] theorem State.setResult_depth (n : Nat) : (s.setResult n).depth = s.depth := rfl
@[simp] theorem State.setResult_root (n : Nat) : (s.setResult n).root = s.root := rfl
@[simp] theorem State.setResult_mem (n : Nat) : (s.setResult n).mem = s.mem := rfl
@[simp] theorem State.setResult_params (n : Nat) : (s.setResult n).params = s.params := rfl
@[simp] theorem State.setResult_draws (n : Nat) : (s.setResult n).draws = s.draws := rfl
@[simp] theorem State.setResult_hostQueue (n : Nat) : (s.setResult n).hostQueue = s.hostQueue := rfl
@[simp] theorem State.setResult_hostReads (n : Nat) : (s.setResult n).hostReads = s.hostReads := rfl

/-! `setTree` -/

@[simp] theorem State.setTree_v (b : Bool) (d : BitVec 6) (r : Words8) : (s.setTree b d r).v = s.v := rfl
@[simp] theorem State.setTree_wk (b : Bool) (d : BitVec 6) (r : Words8) : (s.setTree b d r).wk = s.wk := rfl
@[simp] theorem State.setTree_w (b : Bool) (d : BitVec 6) (r : Words8) : (s.setTree b d r).w = s.w := rfl
@[simp] theorem State.setTree_w1 (b : Bool) (d : BitVec 6) (r : Words8) : (s.setTree b d r).w1 = s.w1 := rfl
@[simp] theorem State.setTree_rnd (b : Bool) (d : BitVec 6) (r : Words8) : (s.setTree b d r).rnd = s.rnd := rfl
@[simp] theorem State.setTree_cfact (b : Bool) (d : BitVec 6) (r : Words8) : (s.setTree b d r).cfact = s.cfact := rfl
@[simp] theorem State.setTree_strat (b : Bool) (d : BitVec 6) (r : Words8) : (s.setTree b d r).strat = s.strat := rfl
@[simp] theorem State.setTree_src (b : Bool) (d : BitVec 6) (r : Words8) : (s.setTree b d r).src = s.src := rfl
@[simp] theorem State.setTree_len (b : Bool) (d : BitVec 6) (r : Words8) : (s.setTree b d r).len = s.len := rfl
@[simp] theorem State.setTree_dst (b : Bool) (d : BitVec 6) (r : Words8) : (s.setTree b d r).dst = s.dst := rfl
@[simp] theorem State.setTree_ptr2 (b : Bool) (d : BitVec 6) (r : Words8) : (s.setTree b d r).ptr2 = s.ptr2 := rfl
@[simp] theorem State.setTree_aux (b : Bool) (d : BitVec 6) (r : Words8) : (s.setTree b d r).aux = s.aux := rfl
@[simp] theorem State.setTree_result (b : Bool) (d : BitVec 6) (r : Words8) : (s.setTree b d r).result = s.result := rfl
@[simp] theorem State.setTree_code (b : Bool) (d : BitVec 6) (r : Words8) : (s.setTree b d r).code = s.code := rfl
@[simp] theorem State.setTree_err (b : Bool) (d : BitVec 6) (r : Words8) : (s.setTree b d r).err = s.err := rfl
@[simp] theorem State.setTree_cmd (b : Bool) (d : BitVec 6) (r : Words8) : (s.setTree b d r).cmd = s.cmd := rfl
@[simp] theorem State.setTree_leaf (b : Bool) (d : BitVec 6) (r : Words8) : (s.setTree b d r).leaf = s.leaf := rfl
@[simp] theorem State.setTree_leafCnt (b : Bool) (d : BitVec 6) (r : Words8) : (s.setTree b d r).leafCnt = s.leafCnt := rfl
@[simp] theorem State.setTree_built (b : Bool) (d : BitVec 6) (r : Words8) : (s.setTree b d r).built = b := rfl
@[simp] theorem State.setTree_depth (b : Bool) (d : BitVec 6) (r : Words8) : (s.setTree b d r).depth = d := rfl
@[simp] theorem State.setTree_root (b : Bool) (d : BitVec 6) (r : Words8) : (s.setTree b d r).root = r := rfl
@[simp] theorem State.setTree_mem (b : Bool) (d : BitVec 6) (r : Words8) : (s.setTree b d r).mem = s.mem := rfl
@[simp] theorem State.setTree_params (b : Bool) (d : BitVec 6) (r : Words8) : (s.setTree b d r).params = s.params := rfl
@[simp] theorem State.setTree_draws (b : Bool) (d : BitVec 6) (r : Words8) : (s.setTree b d r).draws = s.draws := rfl
@[simp] theorem State.setTree_hostQueue (b : Bool) (d : BitVec 6) (r : Words8) : (s.setTree b d r).hostQueue = s.hostQueue := rfl
@[simp] theorem State.setTree_hostReads (b : Bool) (d : BitVec 6) (r : Words8) : (s.setTree b d r).hostReads = s.hostReads := rfl

/-! `setLeafCnt` -/

@[simp] theorem State.setLeafCnt_v (n : Word) : (s.setLeafCnt n).v = s.v := rfl
@[simp] theorem State.setLeafCnt_wk (n : Word) : (s.setLeafCnt n).wk = s.wk := rfl
@[simp] theorem State.setLeafCnt_w (n : Word) : (s.setLeafCnt n).w = s.w := rfl
@[simp] theorem State.setLeafCnt_w1 (n : Word) : (s.setLeafCnt n).w1 = s.w1 := rfl
@[simp] theorem State.setLeafCnt_rnd (n : Word) : (s.setLeafCnt n).rnd = s.rnd := rfl
@[simp] theorem State.setLeafCnt_cfact (n : Word) : (s.setLeafCnt n).cfact = s.cfact := rfl
@[simp] theorem State.setLeafCnt_strat (n : Word) : (s.setLeafCnt n).strat = s.strat := rfl
@[simp] theorem State.setLeafCnt_src (n : Word) : (s.setLeafCnt n).src = s.src := rfl
@[simp] theorem State.setLeafCnt_len (n : Word) : (s.setLeafCnt n).len = s.len := rfl
@[simp] theorem State.setLeafCnt_dst (n : Word) : (s.setLeafCnt n).dst = s.dst := rfl
@[simp] theorem State.setLeafCnt_ptr2 (n : Word) : (s.setLeafCnt n).ptr2 = s.ptr2 := rfl
@[simp] theorem State.setLeafCnt_aux (n : Word) : (s.setLeafCnt n).aux = s.aux := rfl
@[simp] theorem State.setLeafCnt_result (n : Word) : (s.setLeafCnt n).result = s.result := rfl
@[simp] theorem State.setLeafCnt_code (n : Word) : (s.setLeafCnt n).code = s.code := rfl
@[simp] theorem State.setLeafCnt_err (n : Word) : (s.setLeafCnt n).err = s.err := rfl
@[simp] theorem State.setLeafCnt_cmd (n : Word) : (s.setLeafCnt n).cmd = s.cmd := rfl
@[simp] theorem State.setLeafCnt_leaf (n : Word) : (s.setLeafCnt n).leaf = s.leaf := rfl
@[simp] theorem State.setLeafCnt_leafCnt (n : Word) : (s.setLeafCnt n).leafCnt = n := rfl
@[simp] theorem State.setLeafCnt_built (n : Word) : (s.setLeafCnt n).built = s.built := rfl
@[simp] theorem State.setLeafCnt_depth (n : Word) : (s.setLeafCnt n).depth = s.depth := rfl
@[simp] theorem State.setLeafCnt_root (n : Word) : (s.setLeafCnt n).root = s.root := rfl
@[simp] theorem State.setLeafCnt_mem (n : Word) : (s.setLeafCnt n).mem = s.mem := rfl
@[simp] theorem State.setLeafCnt_params (n : Word) : (s.setLeafCnt n).params = s.params := rfl
@[simp] theorem State.setLeafCnt_draws (n : Word) : (s.setLeafCnt n).draws = s.draws := rfl
@[simp] theorem State.setLeafCnt_hostQueue (n : Word) : (s.setLeafCnt n).hostQueue = s.hostQueue := rfl
@[simp] theorem State.setLeafCnt_hostReads (n : Word) : (s.setLeafCnt n).hostReads = s.hostReads := rfl

/-! `setLeaf` -/

@[simp] theorem State.setLeaf_v (i : Nat) (d : Words8) : (s.setLeaf i d).v = s.v := rfl
@[simp] theorem State.setLeaf_wk (i : Nat) (d : Words8) : (s.setLeaf i d).wk = s.wk := rfl
@[simp] theorem State.setLeaf_w (i : Nat) (d : Words8) : (s.setLeaf i d).w = s.w := rfl
@[simp] theorem State.setLeaf_w1 (i : Nat) (d : Words8) : (s.setLeaf i d).w1 = s.w1 := rfl
@[simp] theorem State.setLeaf_rnd (i : Nat) (d : Words8) : (s.setLeaf i d).rnd = s.rnd := rfl
@[simp] theorem State.setLeaf_cfact (i : Nat) (d : Words8) : (s.setLeaf i d).cfact = s.cfact := rfl
@[simp] theorem State.setLeaf_strat (i : Nat) (d : Words8) : (s.setLeaf i d).strat = s.strat := rfl
@[simp] theorem State.setLeaf_src (i : Nat) (d : Words8) : (s.setLeaf i d).src = s.src := rfl
@[simp] theorem State.setLeaf_len (i : Nat) (d : Words8) : (s.setLeaf i d).len = s.len := rfl
@[simp] theorem State.setLeaf_dst (i : Nat) (d : Words8) : (s.setLeaf i d).dst = s.dst := rfl
@[simp] theorem State.setLeaf_ptr2 (i : Nat) (d : Words8) : (s.setLeaf i d).ptr2 = s.ptr2 := rfl
@[simp] theorem State.setLeaf_aux (i : Nat) (d : Words8) : (s.setLeaf i d).aux = s.aux := rfl
@[simp] theorem State.setLeaf_result (i : Nat) (d : Words8) : (s.setLeaf i d).result = s.result := rfl
@[simp] theorem State.setLeaf_code (i : Nat) (d : Words8) : (s.setLeaf i d).code = s.code := rfl
@[simp] theorem State.setLeaf_err (i : Nat) (d : Words8) : (s.setLeaf i d).err = s.err := rfl
@[simp] theorem State.setLeaf_cmd (i : Nat) (d : Words8) : (s.setLeaf i d).cmd = s.cmd := rfl
@[simp] theorem State.setLeaf_leaf (i : Nat) (d : Words8) : (s.setLeaf i d).leaf = storeSet s.leaf i d := rfl
@[simp] theorem State.setLeaf_leafCnt (i : Nat) (d : Words8) : (s.setLeaf i d).leafCnt = s.leafCnt := rfl
@[simp] theorem State.setLeaf_built (i : Nat) (d : Words8) : (s.setLeaf i d).built = s.built := rfl
@[simp] theorem State.setLeaf_depth (i : Nat) (d : Words8) : (s.setLeaf i d).depth = s.depth := rfl
@[simp] theorem State.setLeaf_root (i : Nat) (d : Words8) : (s.setLeaf i d).root = s.root := rfl
@[simp] theorem State.setLeaf_mem (i : Nat) (d : Words8) : (s.setLeaf i d).mem = s.mem := rfl
@[simp] theorem State.setLeaf_params (i : Nat) (d : Words8) : (s.setLeaf i d).params = s.params := rfl
@[simp] theorem State.setLeaf_draws (i : Nat) (d : Words8) : (s.setLeaf i d).draws = s.draws := rfl
@[simp] theorem State.setLeaf_hostQueue (i : Nat) (d : Words8) : (s.setLeaf i d).hostQueue = s.hostQueue := rfl
@[simp] theorem State.setLeaf_hostReads (i : Nat) (d : Words8) : (s.setLeaf i d).hostReads = s.hostReads := rfl

/-! `setStale` -/

@[simp] theorem State.setStale_v : (s.setStale).v = s.v := rfl
@[simp] theorem State.setStale_wk : (s.setStale).wk = s.wk := rfl
@[simp] theorem State.setStale_w : (s.setStale).w = s.w := rfl
@[simp] theorem State.setStale_w1 : (s.setStale).w1 = s.w1 := rfl
@[simp] theorem State.setStale_rnd : (s.setStale).rnd = s.rnd := rfl
@[simp] theorem State.setStale_cfact : (s.setStale).cfact = s.cfact := rfl
@[simp] theorem State.setStale_strat : (s.setStale).strat = s.strat := rfl
@[simp] theorem State.setStale_src : (s.setStale).src = s.src := rfl
@[simp] theorem State.setStale_len : (s.setStale).len = s.len := rfl
@[simp] theorem State.setStale_dst : (s.setStale).dst = s.dst := rfl
@[simp] theorem State.setStale_ptr2 : (s.setStale).ptr2 = s.ptr2 := rfl
@[simp] theorem State.setStale_aux : (s.setStale).aux = s.aux := rfl
@[simp] theorem State.setStale_result : (s.setStale).result = s.result := rfl
@[simp] theorem State.setStale_code : (s.setStale).code = s.code := rfl
@[simp] theorem State.setStale_err : (s.setStale).err = s.err := rfl
@[simp] theorem State.setStale_cmd : (s.setStale).cmd = s.cmd := rfl
@[simp] theorem State.setStale_leaf : (s.setStale).leaf = s.leaf := rfl
@[simp] theorem State.setStale_leafCnt : (s.setStale).leafCnt = s.leafCnt := rfl
@[simp] theorem State.setStale_built : (s.setStale).built = false := rfl
@[simp] theorem State.setStale_depth : (s.setStale).depth = s.depth := rfl
@[simp] theorem State.setStale_root : (s.setStale).root = s.root := rfl
@[simp] theorem State.setStale_mem : (s.setStale).mem = s.mem := rfl
@[simp] theorem State.setStale_params : (s.setStale).params = s.params := rfl
@[simp] theorem State.setStale_draws : (s.setStale).draws = s.draws := rfl
@[simp] theorem State.setStale_hostQueue : (s.setStale).hostQueue = s.hostQueue := rfl
@[simp] theorem State.setStale_hostReads : (s.setStale).hostReads = s.hostReads := rfl

/-! `abandon` -/

@[simp] theorem State.abandon_v : (s.abandon).v = s.v := rfl
@[simp] theorem State.abandon_wk : (s.abandon).wk = s.wk := rfl
@[simp] theorem State.abandon_w : (s.abandon).w = s.w := rfl
@[simp] theorem State.abandon_w1 : (s.abandon).w1 = s.w1 := rfl
@[simp] theorem State.abandon_rnd : (s.abandon).rnd = 0 := rfl
@[simp] theorem State.abandon_cfact : (s.abandon).cfact = false := rfl
@[simp] theorem State.abandon_strat : (s.abandon).strat = s.strat := rfl
@[simp] theorem State.abandon_src : (s.abandon).src = s.src := rfl
@[simp] theorem State.abandon_len : (s.abandon).len = s.len := rfl
@[simp] theorem State.abandon_dst : (s.abandon).dst = s.dst := rfl
@[simp] theorem State.abandon_ptr2 : (s.abandon).ptr2 = s.ptr2 := rfl
@[simp] theorem State.abandon_aux : (s.abandon).aux = s.aux := rfl
@[simp] theorem State.abandon_result : (s.abandon).result = s.result := rfl
@[simp] theorem State.abandon_code : (s.abandon).code = s.code := rfl
@[simp] theorem State.abandon_err : (s.abandon).err = s.err := rfl
@[simp] theorem State.abandon_cmd : (s.abandon).cmd = s.cmd := rfl
@[simp] theorem State.abandon_leaf : (s.abandon).leaf = s.leaf := rfl
@[simp] theorem State.abandon_leafCnt : (s.abandon).leafCnt = s.leafCnt := rfl
@[simp] theorem State.abandon_built : (s.abandon).built = s.built := rfl
@[simp] theorem State.abandon_depth : (s.abandon).depth = s.depth := rfl
@[simp] theorem State.abandon_root : (s.abandon).root = s.root := rfl
@[simp] theorem State.abandon_mem : (s.abandon).mem = s.mem := rfl
@[simp] theorem State.abandon_params : (s.abandon).params = s.params := rfl
@[simp] theorem State.abandon_draws : (s.abandon).draws = s.draws := rfl
@[simp] theorem State.abandon_hostQueue : (s.abandon).hostQueue = s.hostQueue := rfl
@[simp] theorem State.abandon_hostReads : (s.abandon).hostReads = s.hostReads := rfl

/-! `scramble` -/

@[simp] theorem State.scramble_v : (s.scramble).v = s.v := rfl
@[simp] theorem State.scramble_wk : (s.scramble).wk = ⟨Config.freeWord (s.draws + 132), Config.freeWord (s.draws + 133), Config.freeWord (s.draws + 134),
      Config.freeWord (s.draws + 135), Config.freeWord (s.draws + 136), Config.freeWord (s.draws + 137),
      Config.freeWord (s.draws + 138), Config.freeWord (s.draws + 139)⟩ := rfl
@[simp] theorem State.scramble_w : (s.scramble).w = Vector.ofFn fun j => Config.freeWord (s.draws + j.val) := rfl
@[simp] theorem State.scramble_w1 : (s.scramble).w1 = Vector.ofFn fun j => Config.freeWord (s.draws + (68 + j.val)) := rfl
@[simp] theorem State.scramble_rnd : (s.scramble).rnd = s.rnd := rfl
@[simp] theorem State.scramble_cfact : (s.scramble).cfact = s.cfact := rfl
@[simp] theorem State.scramble_strat : (s.scramble).strat = s.strat := rfl
@[simp] theorem State.scramble_src : (s.scramble).src = s.src := rfl
@[simp] theorem State.scramble_len : (s.scramble).len = s.len := rfl
@[simp] theorem State.scramble_dst : (s.scramble).dst = s.dst := rfl
@[simp] theorem State.scramble_ptr2 : (s.scramble).ptr2 = s.ptr2 := rfl
@[simp] theorem State.scramble_aux : (s.scramble).aux = s.aux := rfl
@[simp] theorem State.scramble_result : (s.scramble).result = s.result := rfl
@[simp] theorem State.scramble_code : (s.scramble).code = s.code := rfl
@[simp] theorem State.scramble_err : (s.scramble).err = s.err := rfl
@[simp] theorem State.scramble_cmd : (s.scramble).cmd = s.cmd := rfl
@[simp] theorem State.scramble_leaf : (s.scramble).leaf = s.leaf := rfl
@[simp] theorem State.scramble_leafCnt : (s.scramble).leafCnt = s.leafCnt := rfl
@[simp] theorem State.scramble_built : (s.scramble).built = s.built := rfl
@[simp] theorem State.scramble_depth : (s.scramble).depth = s.depth := rfl
@[simp] theorem State.scramble_root : (s.scramble).root = s.root := rfl
@[simp] theorem State.scramble_mem : (s.scramble).mem = s.mem := rfl
@[simp] theorem State.scramble_params : (s.scramble).params = s.params := rfl
@[simp] theorem State.scramble_draws : (s.scramble).draws = s.draws + scrambleDraws := rfl
@[simp] theorem State.scramble_hostQueue : (s.scramble).hostQueue = s.hostQueue := rfl
@[simp] theorem State.scramble_hostReads : (s.scramble).hostReads = s.hostReads := rfl

/-! `succeed` -/

@[simp] theorem State.succeed_v : (s.succeed).v = s.v := rfl
@[simp] theorem State.succeed_wk : (s.succeed).wk = s.wk := rfl
@[simp] theorem State.succeed_w : (s.succeed).w = s.w := rfl
@[simp] theorem State.succeed_w1 : (s.succeed).w1 = s.w1 := rfl
@[simp] theorem State.succeed_rnd : (s.succeed).rnd = s.rnd := rfl
@[simp] theorem State.succeed_cfact : (s.succeed).cfact = s.cfact := rfl
@[simp] theorem State.succeed_strat : (s.succeed).strat = s.strat := rfl
@[simp] theorem State.succeed_src : (s.succeed).src = s.src := rfl
@[simp] theorem State.succeed_len : (s.succeed).len = s.len := rfl
@[simp] theorem State.succeed_dst : (s.succeed).dst = s.dst := rfl
@[simp] theorem State.succeed_ptr2 : (s.succeed).ptr2 = s.ptr2 := rfl
@[simp] theorem State.succeed_aux : (s.succeed).aux = s.aux := rfl
@[simp] theorem State.succeed_result : (s.succeed).result = s.result := rfl
@[simp] theorem State.succeed_code : (s.succeed).code = .ok := rfl
@[simp] theorem State.succeed_err : (s.succeed).err = s.err := rfl
@[simp] theorem State.succeed_cmd : (s.succeed).cmd = s.cmd := rfl
@[simp] theorem State.succeed_leaf : (s.succeed).leaf = s.leaf := rfl
@[simp] theorem State.succeed_leafCnt : (s.succeed).leafCnt = s.leafCnt := rfl
@[simp] theorem State.succeed_built : (s.succeed).built = s.built := rfl
@[simp] theorem State.succeed_depth : (s.succeed).depth = s.depth := rfl
@[simp] theorem State.succeed_root : (s.succeed).root = s.root := rfl
@[simp] theorem State.succeed_mem : (s.succeed).mem = s.mem := rfl
@[simp] theorem State.succeed_params : (s.succeed).params = s.params := rfl
@[simp] theorem State.succeed_draws : (s.succeed).draws = s.draws := rfl
@[simp] theorem State.succeed_hostQueue : (s.succeed).hostQueue = s.hostQueue := rfl
@[simp] theorem State.succeed_hostReads : (s.succeed).hostReads = s.hostReads := rfl

/-! `raise` -/

@[simp] theorem State.raise_v (e : Code) : (s.raise e).v = s.v := rfl
@[simp] theorem State.raise_wk (e : Code) : (s.raise e).wk = s.wk := rfl
@[simp] theorem State.raise_w (e : Code) : (s.raise e).w = s.w := rfl
@[simp] theorem State.raise_w1 (e : Code) : (s.raise e).w1 = s.w1 := rfl
@[simp] theorem State.raise_rnd (e : Code) : (s.raise e).rnd = s.rnd := rfl
@[simp] theorem State.raise_cfact (e : Code) : (s.raise e).cfact = s.cfact := rfl
@[simp] theorem State.raise_strat (e : Code) : (s.raise e).strat = s.strat := rfl
@[simp] theorem State.raise_src (e : Code) : (s.raise e).src = s.src := rfl
@[simp] theorem State.raise_len (e : Code) : (s.raise e).len = s.len := rfl
@[simp] theorem State.raise_dst (e : Code) : (s.raise e).dst = s.dst := rfl
@[simp] theorem State.raise_ptr2 (e : Code) : (s.raise e).ptr2 = s.ptr2 := rfl
@[simp] theorem State.raise_aux (e : Code) : (s.raise e).aux = s.aux := rfl
@[simp] theorem State.raise_result (e : Code) : (s.raise e).result = s.result := rfl
@[simp] theorem State.raise_code (e : Code) : (s.raise e).code = e := rfl
@[simp] theorem State.raise_err (e : Code) : (s.raise e).err = true := rfl
@[simp] theorem State.raise_cmd (e : Code) : (s.raise e).cmd = s.cmd := rfl
@[simp] theorem State.raise_leaf (e : Code) : (s.raise e).leaf = s.leaf := rfl
@[simp] theorem State.raise_leafCnt (e : Code) : (s.raise e).leafCnt = s.leafCnt := rfl
@[simp] theorem State.raise_built (e : Code) : (s.raise e).built = s.built := rfl
@[simp] theorem State.raise_depth (e : Code) : (s.raise e).depth = s.depth := rfl
@[simp] theorem State.raise_root (e : Code) : (s.raise e).root = s.root := rfl
@[simp] theorem State.raise_mem (e : Code) : (s.raise e).mem = s.mem := rfl
@[simp] theorem State.raise_params (e : Code) : (s.raise e).params = s.params := rfl
@[simp] theorem State.raise_draws (e : Code) : (s.raise e).draws = s.draws := rfl
@[simp] theorem State.raise_hostQueue (e : Code) : (s.raise e).hostQueue = s.hostQueue := rfl
@[simp] theorem State.raise_hostReads (e : Code) : (s.raise e).hostReads = s.hostReads := rfl

/-! `writeStatus` -/

@[simp] theorem State.writeStatus_v (x : Word) : (s.writeStatus x).v = s.v := rfl
@[simp] theorem State.writeStatus_wk (x : Word) : (s.writeStatus x).wk = s.wk := rfl
@[simp] theorem State.writeStatus_w (x : Word) : (s.writeStatus x).w = s.w := rfl
@[simp] theorem State.writeStatus_w1 (x : Word) : (s.writeStatus x).w1 = s.w1 := rfl
@[simp] theorem State.writeStatus_rnd (x : Word) : (s.writeStatus x).rnd = s.rnd := rfl
@[simp] theorem State.writeStatus_cfact (x : Word) : (s.writeStatus x).cfact = s.cfact := rfl
@[simp] theorem State.writeStatus_strat (x : Word) : (s.writeStatus x).strat = s.strat := rfl
@[simp] theorem State.writeStatus_src (x : Word) : (s.writeStatus x).src = s.src := rfl
@[simp] theorem State.writeStatus_len (x : Word) : (s.writeStatus x).len = s.len := rfl
@[simp] theorem State.writeStatus_dst (x : Word) : (s.writeStatus x).dst = s.dst := rfl
@[simp] theorem State.writeStatus_ptr2 (x : Word) : (s.writeStatus x).ptr2 = s.ptr2 := rfl
@[simp] theorem State.writeStatus_aux (x : Word) : (s.writeStatus x).aux = s.aux := rfl
@[simp] theorem State.writeStatus_result (x : Word) : (s.writeStatus x).result = s.result := rfl
@[simp] theorem State.writeStatus_code (x : Word) : (s.writeStatus x).code = s.code := rfl
@[simp] theorem State.writeStatus_err (x : Word) : (s.writeStatus x).err = (s.err && !x.getLsbD 8) := rfl
@[simp] theorem State.writeStatus_cmd (x : Word) : (s.writeStatus x).cmd = s.cmd := rfl
@[simp] theorem State.writeStatus_leaf (x : Word) : (s.writeStatus x).leaf = s.leaf := rfl
@[simp] theorem State.writeStatus_leafCnt (x : Word) : (s.writeStatus x).leafCnt = s.leafCnt := rfl
@[simp] theorem State.writeStatus_built (x : Word) : (s.writeStatus x).built = s.built := rfl
@[simp] theorem State.writeStatus_depth (x : Word) : (s.writeStatus x).depth = s.depth := rfl
@[simp] theorem State.writeStatus_root (x : Word) : (s.writeStatus x).root = s.root := rfl
@[simp] theorem State.writeStatus_mem (x : Word) : (s.writeStatus x).mem = s.mem := rfl
@[simp] theorem State.writeStatus_params (x : Word) : (s.writeStatus x).params = s.params := rfl
@[simp] theorem State.writeStatus_draws (x : Word) : (s.writeStatus x).draws = s.draws := rfl
@[simp] theorem State.writeStatus_hostQueue (x : Word) : (s.writeStatus x).hostQueue = s.hostQueue := rfl
@[simp] theorem State.writeStatus_hostReads (x : Word) : (s.writeStatus x).hostReads = s.hostReads := rfl

/-! `writeAuxLo` -/

@[simp] theorem State.writeAuxLo_v (x : Word) : (s.writeAuxLo x).v = s.v := rfl
@[simp] theorem State.writeAuxLo_wk (x : Word) : (s.writeAuxLo x).wk = s.wk := rfl
@[simp] theorem State.writeAuxLo_w (x : Word) : (s.writeAuxLo x).w = s.w := rfl
@[simp] theorem State.writeAuxLo_w1 (x : Word) : (s.writeAuxLo x).w1 = s.w1 := rfl
@[simp] theorem State.writeAuxLo_rnd (x : Word) : (s.writeAuxLo x).rnd = s.rnd := rfl
@[simp] theorem State.writeAuxLo_cfact (x : Word) : (s.writeAuxLo x).cfact = s.cfact := rfl
@[simp] theorem State.writeAuxLo_strat (x : Word) : (s.writeAuxLo x).strat = s.strat := rfl
@[simp] theorem State.writeAuxLo_src (x : Word) : (s.writeAuxLo x).src = s.src := rfl
@[simp] theorem State.writeAuxLo_len (x : Word) : (s.writeAuxLo x).len = s.len := rfl
@[simp] theorem State.writeAuxLo_dst (x : Word) : (s.writeAuxLo x).dst = s.dst := rfl
@[simp] theorem State.writeAuxLo_ptr2 (x : Word) : (s.writeAuxLo x).ptr2 = s.ptr2 := rfl
@[simp] theorem State.writeAuxLo_aux (x : Word) : (s.writeAuxLo x).aux = s.aux.extractLsb' 32 32 ++ x := rfl
@[simp] theorem State.writeAuxLo_result (x : Word) : (s.writeAuxLo x).result = s.result := rfl
@[simp] theorem State.writeAuxLo_code (x : Word) : (s.writeAuxLo x).code = s.code := rfl
@[simp] theorem State.writeAuxLo_err (x : Word) : (s.writeAuxLo x).err = s.err := rfl
@[simp] theorem State.writeAuxLo_cmd (x : Word) : (s.writeAuxLo x).cmd = s.cmd := rfl
@[simp] theorem State.writeAuxLo_leaf (x : Word) : (s.writeAuxLo x).leaf = s.leaf := rfl
@[simp] theorem State.writeAuxLo_leafCnt (x : Word) : (s.writeAuxLo x).leafCnt = s.leafCnt := rfl
@[simp] theorem State.writeAuxLo_built (x : Word) : (s.writeAuxLo x).built = s.built := rfl
@[simp] theorem State.writeAuxLo_depth (x : Word) : (s.writeAuxLo x).depth = s.depth := rfl
@[simp] theorem State.writeAuxLo_root (x : Word) : (s.writeAuxLo x).root = s.root := rfl
@[simp] theorem State.writeAuxLo_mem (x : Word) : (s.writeAuxLo x).mem = s.mem := rfl
@[simp] theorem State.writeAuxLo_params (x : Word) : (s.writeAuxLo x).params = s.params := rfl
@[simp] theorem State.writeAuxLo_draws (x : Word) : (s.writeAuxLo x).draws = s.draws := rfl
@[simp] theorem State.writeAuxLo_hostQueue (x : Word) : (s.writeAuxLo x).hostQueue = s.hostQueue := rfl
@[simp] theorem State.writeAuxLo_hostReads (x : Word) : (s.writeAuxLo x).hostReads = s.hostReads := rfl

/-! `writeAuxHi` -/

@[simp] theorem State.writeAuxHi_v (x : Word) : (s.writeAuxHi x).v = s.v := rfl
@[simp] theorem State.writeAuxHi_wk (x : Word) : (s.writeAuxHi x).wk = s.wk := rfl
@[simp] theorem State.writeAuxHi_w (x : Word) : (s.writeAuxHi x).w = s.w := rfl
@[simp] theorem State.writeAuxHi_w1 (x : Word) : (s.writeAuxHi x).w1 = s.w1 := rfl
@[simp] theorem State.writeAuxHi_rnd (x : Word) : (s.writeAuxHi x).rnd = s.rnd := rfl
@[simp] theorem State.writeAuxHi_cfact (x : Word) : (s.writeAuxHi x).cfact = s.cfact := rfl
@[simp] theorem State.writeAuxHi_strat (x : Word) : (s.writeAuxHi x).strat = s.strat := rfl
@[simp] theorem State.writeAuxHi_src (x : Word) : (s.writeAuxHi x).src = s.src := rfl
@[simp] theorem State.writeAuxHi_len (x : Word) : (s.writeAuxHi x).len = s.len := rfl
@[simp] theorem State.writeAuxHi_dst (x : Word) : (s.writeAuxHi x).dst = s.dst := rfl
@[simp] theorem State.writeAuxHi_ptr2 (x : Word) : (s.writeAuxHi x).ptr2 = s.ptr2 := rfl
@[simp] theorem State.writeAuxHi_aux (x : Word) : (s.writeAuxHi x).aux = x ++ s.aux.extractLsb' 0 32 := rfl
@[simp] theorem State.writeAuxHi_result (x : Word) : (s.writeAuxHi x).result = s.result := rfl
@[simp] theorem State.writeAuxHi_code (x : Word) : (s.writeAuxHi x).code = s.code := rfl
@[simp] theorem State.writeAuxHi_err (x : Word) : (s.writeAuxHi x).err = s.err := rfl
@[simp] theorem State.writeAuxHi_cmd (x : Word) : (s.writeAuxHi x).cmd = s.cmd := rfl
@[simp] theorem State.writeAuxHi_leaf (x : Word) : (s.writeAuxHi x).leaf = s.leaf := rfl
@[simp] theorem State.writeAuxHi_leafCnt (x : Word) : (s.writeAuxHi x).leafCnt = s.leafCnt := rfl
@[simp] theorem State.writeAuxHi_built (x : Word) : (s.writeAuxHi x).built = s.built := rfl
@[simp] theorem State.writeAuxHi_depth (x : Word) : (s.writeAuxHi x).depth = s.depth := rfl
@[simp] theorem State.writeAuxHi_root (x : Word) : (s.writeAuxHi x).root = s.root := rfl
@[simp] theorem State.writeAuxHi_mem (x : Word) : (s.writeAuxHi x).mem = s.mem := rfl
@[simp] theorem State.writeAuxHi_params (x : Word) : (s.writeAuxHi x).params = s.params := rfl
@[simp] theorem State.writeAuxHi_draws (x : Word) : (s.writeAuxHi x).draws = s.draws := rfl
@[simp] theorem State.writeAuxHi_hostQueue (x : Word) : (s.writeAuxHi x).hostQueue = s.hostQueue := rfl
@[simp] theorem State.writeAuxHi_hostReads (x : Word) : (s.writeAuxHi x).hostReads = s.hostReads := rfl

/-! `logRead` -/

@[simp] theorem State.logRead_v (r : HostRead) : (s.logRead r).v = s.v := rfl
@[simp] theorem State.logRead_wk (r : HostRead) : (s.logRead r).wk = s.wk := rfl
@[simp] theorem State.logRead_w (r : HostRead) : (s.logRead r).w = s.w := rfl
@[simp] theorem State.logRead_w1 (r : HostRead) : (s.logRead r).w1 = s.w1 := rfl
@[simp] theorem State.logRead_rnd (r : HostRead) : (s.logRead r).rnd = s.rnd := rfl
@[simp] theorem State.logRead_cfact (r : HostRead) : (s.logRead r).cfact = s.cfact := rfl
@[simp] theorem State.logRead_strat (r : HostRead) : (s.logRead r).strat = s.strat := rfl
@[simp] theorem State.logRead_src (r : HostRead) : (s.logRead r).src = s.src := rfl
@[simp] theorem State.logRead_len (r : HostRead) : (s.logRead r).len = s.len := rfl
@[simp] theorem State.logRead_dst (r : HostRead) : (s.logRead r).dst = s.dst := rfl
@[simp] theorem State.logRead_ptr2 (r : HostRead) : (s.logRead r).ptr2 = s.ptr2 := rfl
@[simp] theorem State.logRead_aux (r : HostRead) : (s.logRead r).aux = s.aux := rfl
@[simp] theorem State.logRead_result (r : HostRead) : (s.logRead r).result = s.result := rfl
@[simp] theorem State.logRead_code (r : HostRead) : (s.logRead r).code = s.code := rfl
@[simp] theorem State.logRead_err (r : HostRead) : (s.logRead r).err = s.err := rfl
@[simp] theorem State.logRead_cmd (r : HostRead) : (s.logRead r).cmd = s.cmd := rfl
@[simp] theorem State.logRead_leaf (r : HostRead) : (s.logRead r).leaf = s.leaf := rfl
@[simp] theorem State.logRead_leafCnt (r : HostRead) : (s.logRead r).leafCnt = s.leafCnt := rfl
@[simp] theorem State.logRead_built (r : HostRead) : (s.logRead r).built = s.built := rfl
@[simp] theorem State.logRead_depth (r : HostRead) : (s.logRead r).depth = s.depth := rfl
@[simp] theorem State.logRead_root (r : HostRead) : (s.logRead r).root = s.root := rfl
@[simp] theorem State.logRead_mem (r : HostRead) : (s.logRead r).mem = s.mem := rfl
@[simp] theorem State.logRead_params (r : HostRead) : (s.logRead r).params = s.params := rfl
@[simp] theorem State.logRead_draws (r : HostRead) : (s.logRead r).draws = s.draws := rfl
@[simp] theorem State.logRead_hostQueue (r : HostRead) : (s.logRead r).hostQueue = s.hostQueue := rfl
@[simp] theorem State.logRead_hostReads (r : HostRead) : (s.logRead r).hostReads = r :: s.hostReads := rfl

/-! `resetEngine` -/

@[simp] theorem State.resetEngine_v : (s.resetEngine).v = State.reset.v := rfl
@[simp] theorem State.resetEngine_wk : (s.resetEngine).wk = State.reset.wk := rfl
@[simp] theorem State.resetEngine_w : (s.resetEngine).w = State.reset.w := rfl
@[simp] theorem State.resetEngine_w1 : (s.resetEngine).w1 = State.reset.w1 := rfl
@[simp] theorem State.resetEngine_rnd : (s.resetEngine).rnd = State.reset.rnd := rfl
@[simp] theorem State.resetEngine_cfact : (s.resetEngine).cfact = State.reset.cfact := rfl
@[simp] theorem State.resetEngine_strat : (s.resetEngine).strat = State.reset.strat := rfl
@[simp] theorem State.resetEngine_src : (s.resetEngine).src = State.reset.src := rfl
@[simp] theorem State.resetEngine_len : (s.resetEngine).len = State.reset.len := rfl
@[simp] theorem State.resetEngine_dst : (s.resetEngine).dst = State.reset.dst := rfl
@[simp] theorem State.resetEngine_ptr2 : (s.resetEngine).ptr2 = State.reset.ptr2 := rfl
@[simp] theorem State.resetEngine_aux : (s.resetEngine).aux = State.reset.aux := rfl
@[simp] theorem State.resetEngine_result : (s.resetEngine).result = State.reset.result := rfl
@[simp] theorem State.resetEngine_code : (s.resetEngine).code = State.reset.code := rfl
@[simp] theorem State.resetEngine_err : (s.resetEngine).err = State.reset.err := rfl
@[simp] theorem State.resetEngine_cmd : (s.resetEngine).cmd = State.reset.cmd := rfl
@[simp] theorem State.resetEngine_leaf : (s.resetEngine).leaf = State.reset.leaf := rfl
@[simp] theorem State.resetEngine_leafCnt : (s.resetEngine).leafCnt = State.reset.leafCnt := rfl
@[simp] theorem State.resetEngine_built : (s.resetEngine).built = State.reset.built := rfl
@[simp] theorem State.resetEngine_depth : (s.resetEngine).depth = State.reset.depth := rfl
@[simp] theorem State.resetEngine_root : (s.resetEngine).root = State.reset.root := rfl
@[simp] theorem State.resetEngine_mem : (s.resetEngine).mem = s.mem := rfl
@[simp] theorem State.resetEngine_params : (s.resetEngine).params = s.params := rfl
@[simp] theorem State.resetEngine_draws : (s.resetEngine).draws = s.draws := rfl
@[simp] theorem State.resetEngine_hostQueue : (s.resetEngine).hostQueue = s.hostQueue := rfl
@[simp] theorem State.resetEngine_hostReads : (s.resetEngine).hostReads = s.hostReads := rfl

/-! The operand accessors and the leaf store see only their own fields. -/

@[simp] theorem State.draw_srcAddr (n : Nat) : (s.draw n).srcAddr = s.srcAddr := rfl
@[simp] theorem State.draw_dstAddr (n : Nat) : (s.draw n).dstAddr = s.dstAddr := rfl
@[simp] theorem State.draw_ptr2Addr (n : Nat) : (s.draw n).ptr2Addr = s.ptr2Addr := rfl
@[simp] theorem State.draw_lenVal (n : Nat) : (s.draw n).lenVal = s.lenVal := rfl
@[simp] theorem State.draw_auxVal (n : Nat) : (s.draw n).auxVal = s.auxVal := rfl
@[simp] theorem State.draw_regionOk (n : Nat) (p k : Nat) : (s.draw n).regionOk p k = s.regionOk p k := rfl
@[simp] theorem State.draw_checkRegion (n : Nat) (p k : Nat) : (s.draw n).checkRegion p k = s.checkRegion p k := rfl
@[simp] theorem State.draw_leafAt (n : Nat) : (s.draw n).leafAt = s.leafAt := rfl
@[simp] theorem State.draw_leafList (n : Nat) : (s.draw n).leafList = s.leafList := rfl
@[simp] theorem State.writeBytes_srcAddr (a : Nat) (bs : List Byte) : (s.writeBytes a bs).srcAddr = s.srcAddr := rfl
@[simp] theorem State.writeBytes_dstAddr (a : Nat) (bs : List Byte) : (s.writeBytes a bs).dstAddr = s.dstAddr := rfl
@[simp] theorem State.writeBytes_ptr2Addr (a : Nat) (bs : List Byte) : (s.writeBytes a bs).ptr2Addr = s.ptr2Addr := rfl
@[simp] theorem State.writeBytes_lenVal (a : Nat) (bs : List Byte) : (s.writeBytes a bs).lenVal = s.lenVal := rfl
@[simp] theorem State.writeBytes_auxVal (a : Nat) (bs : List Byte) : (s.writeBytes a bs).auxVal = s.auxVal := rfl
@[simp] theorem State.writeBytes_regionOk (a : Nat) (bs : List Byte) (p k : Nat) : (s.writeBytes a bs).regionOk p k = s.regionOk p k := rfl
@[simp] theorem State.writeBytes_checkRegion (a : Nat) (bs : List Byte) (p k : Nat) : (s.writeBytes a bs).checkRegion p k = s.checkRegion p k := rfl
@[simp] theorem State.writeBytes_leafAt (a : Nat) (bs : List Byte) : (s.writeBytes a bs).leafAt = s.leafAt := rfl
@[simp] theorem State.writeBytes_leafList (a : Nat) (bs : List Byte) : (s.writeBytes a bs).leafList = s.leafList := rfl
@[simp] theorem State.setV_srcAddr (x : Words8) : (s.setV x).srcAddr = s.srcAddr := rfl
@[simp] theorem State.setV_dstAddr (x : Words8) : (s.setV x).dstAddr = s.dstAddr := rfl
@[simp] theorem State.setV_ptr2Addr (x : Words8) : (s.setV x).ptr2Addr = s.ptr2Addr := rfl
@[simp] theorem State.setV_lenVal (x : Words8) : (s.setV x).lenVal = s.lenVal := rfl
@[simp] theorem State.setV_auxVal (x : Words8) : (s.setV x).auxVal = s.auxVal := rfl
@[simp] theorem State.setV_regionOk (x : Words8) (p k : Nat) : (s.setV x).regionOk p k = s.regionOk p k := rfl
@[simp] theorem State.setV_checkRegion (x : Words8) (p k : Nat) : (s.setV x).checkRegion p k = s.checkRegion p k := rfl
@[simp] theorem State.setV_leafAt (x : Words8) : (s.setV x).leafAt = s.leafAt := rfl
@[simp] theorem State.setV_leafList (x : Words8) : (s.setV x).leafList = s.leafList := rfl
@[simp] theorem State.setWk_srcAddr (x : Words8) : (s.setWk x).srcAddr = s.srcAddr := rfl
@[simp] theorem State.setWk_dstAddr (x : Words8) : (s.setWk x).dstAddr = s.dstAddr := rfl
@[simp] theorem State.setWk_ptr2Addr (x : Words8) : (s.setWk x).ptr2Addr = s.ptr2Addr := rfl
@[simp] theorem State.setWk_lenVal (x : Words8) : (s.setWk x).lenVal = s.lenVal := rfl
@[simp] theorem State.setWk_auxVal (x : Words8) : (s.setWk x).auxVal = s.auxVal := rfl
@[simp] theorem State.setWk_regionOk (x : Words8) (p k : Nat) : (s.setWk x).regionOk p k = s.regionOk p k := rfl
@[simp] theorem State.setWk_checkRegion (x : Words8) (p k : Nat) : (s.setWk x).checkRegion p k = s.checkRegion p k := rfl
@[simp] theorem State.setWk_leafAt (x : Words8) : (s.setWk x).leafAt = s.leafAt := rfl
@[simp] theorem State.setWk_leafList (x : Words8) : (s.setWk x).leafList = s.leafList := rfl
@[simp] theorem State.setSchedule_srcAddr (x : Vector Word 68) (y : Vector Word 64) : (s.setSchedule x y).srcAddr = s.srcAddr := rfl
@[simp] theorem State.setSchedule_dstAddr (x : Vector Word 68) (y : Vector Word 64) : (s.setSchedule x y).dstAddr = s.dstAddr := rfl
@[simp] theorem State.setSchedule_ptr2Addr (x : Vector Word 68) (y : Vector Word 64) : (s.setSchedule x y).ptr2Addr = s.ptr2Addr := rfl
@[simp] theorem State.setSchedule_lenVal (x : Vector Word 68) (y : Vector Word 64) : (s.setSchedule x y).lenVal = s.lenVal := rfl
@[simp] theorem State.setSchedule_auxVal (x : Vector Word 68) (y : Vector Word 64) : (s.setSchedule x y).auxVal = s.auxVal := rfl
@[simp] theorem State.setSchedule_regionOk (x : Vector Word 68) (y : Vector Word 64) (p k : Nat) : (s.setSchedule x y).regionOk p k = s.regionOk p k := rfl
@[simp] theorem State.setSchedule_checkRegion (x : Vector Word 68) (y : Vector Word 64) (p k : Nat) : (s.setSchedule x y).checkRegion p k = s.checkRegion p k := rfl
@[simp] theorem State.setSchedule_leafAt (x : Vector Word 68) (y : Vector Word 64) : (s.setSchedule x y).leafAt = s.leafAt := rfl
@[simp] theorem State.setSchedule_leafList (x : Vector Word 68) (y : Vector Word 64) : (s.setSchedule x y).leafList = s.leafList := rfl
@[simp] theorem State.setRnd_srcAddr (n : BitVec 7) : (s.setRnd n).srcAddr = s.srcAddr := rfl
@[simp] theorem State.setRnd_dstAddr (n : BitVec 7) : (s.setRnd n).dstAddr = s.dstAddr := rfl
@[simp] theorem State.setRnd_ptr2Addr (n : BitVec 7) : (s.setRnd n).ptr2Addr = s.ptr2Addr := rfl
@[simp] theorem State.setRnd_lenVal (n : BitVec 7) : (s.setRnd n).lenVal = s.lenVal := rfl
@[simp] theorem State.setRnd_auxVal (n : BitVec 7) : (s.setRnd n).auxVal = s.auxVal := rfl
@[simp] theorem State.setRnd_regionOk (n : BitVec 7) (p k : Nat) : (s.setRnd n).regionOk p k = s.regionOk p k := rfl
@[simp] theorem State.setRnd_checkRegion (n : BitVec 7) (p k : Nat) : (s.setRnd n).checkRegion p k = s.checkRegion p k := rfl
@[simp] theorem State.setRnd_leafAt (n : BitVec 7) : (s.setRnd n).leafAt = s.leafAt := rfl
@[simp] theorem State.setRnd_leafList (n : BitVec 7) : (s.setRnd n).leafList = s.leafList := rfl
@[simp] theorem State.setCfact_srcAddr (x : Bool) : (s.setCfact x).srcAddr = s.srcAddr := rfl
@[simp] theorem State.setCfact_dstAddr (x : Bool) : (s.setCfact x).dstAddr = s.dstAddr := rfl
@[simp] theorem State.setCfact_ptr2Addr (x : Bool) : (s.setCfact x).ptr2Addr = s.ptr2Addr := rfl
@[simp] theorem State.setCfact_lenVal (x : Bool) : (s.setCfact x).lenVal = s.lenVal := rfl
@[simp] theorem State.setCfact_auxVal (x : Bool) : (s.setCfact x).auxVal = s.auxVal := rfl
@[simp] theorem State.setCfact_regionOk (x : Bool) (p k : Nat) : (s.setCfact x).regionOk p k = s.regionOk p k := rfl
@[simp] theorem State.setCfact_checkRegion (x : Bool) (p k : Nat) : (s.setCfact x).checkRegion p k = s.checkRegion p k := rfl
@[simp] theorem State.setCfact_leafAt (x : Bool) : (s.setCfact x).leafAt = s.leafAt := rfl
@[simp] theorem State.setCfact_leafList (x : Bool) : (s.setCfact x).leafList = s.leafList := rfl
@[simp] theorem State.setResult_srcAddr (n : Nat) : (s.setResult n).srcAddr = s.srcAddr := rfl
@[simp] theorem State.setResult_dstAddr (n : Nat) : (s.setResult n).dstAddr = s.dstAddr := rfl
@[simp] theorem State.setResult_ptr2Addr (n : Nat) : (s.setResult n).ptr2Addr = s.ptr2Addr := rfl
@[simp] theorem State.setResult_lenVal (n : Nat) : (s.setResult n).lenVal = s.lenVal := rfl
@[simp] theorem State.setResult_auxVal (n : Nat) : (s.setResult n).auxVal = s.auxVal := rfl
@[simp] theorem State.setResult_regionOk (n : Nat) (p k : Nat) : (s.setResult n).regionOk p k = s.regionOk p k := rfl
@[simp] theorem State.setResult_checkRegion (n : Nat) (p k : Nat) : (s.setResult n).checkRegion p k = s.checkRegion p k := rfl
@[simp] theorem State.setResult_leafAt (n : Nat) : (s.setResult n).leafAt = s.leafAt := rfl
@[simp] theorem State.setResult_leafList (n : Nat) : (s.setResult n).leafList = s.leafList := rfl
@[simp] theorem State.setTree_srcAddr (b : Bool) (d : BitVec 6) (r : Words8) : (s.setTree b d r).srcAddr = s.srcAddr := rfl
@[simp] theorem State.setTree_dstAddr (b : Bool) (d : BitVec 6) (r : Words8) : (s.setTree b d r).dstAddr = s.dstAddr := rfl
@[simp] theorem State.setTree_ptr2Addr (b : Bool) (d : BitVec 6) (r : Words8) : (s.setTree b d r).ptr2Addr = s.ptr2Addr := rfl
@[simp] theorem State.setTree_lenVal (b : Bool) (d : BitVec 6) (r : Words8) : (s.setTree b d r).lenVal = s.lenVal := rfl
@[simp] theorem State.setTree_auxVal (b : Bool) (d : BitVec 6) (r : Words8) : (s.setTree b d r).auxVal = s.auxVal := rfl
@[simp] theorem State.setTree_regionOk (b : Bool) (d : BitVec 6) (r : Words8) (p k : Nat) : (s.setTree b d r).regionOk p k = s.regionOk p k := rfl
@[simp] theorem State.setTree_checkRegion (b : Bool) (d : BitVec 6) (r : Words8) (p k : Nat) : (s.setTree b d r).checkRegion p k = s.checkRegion p k := rfl
@[simp] theorem State.setTree_leafAt (b : Bool) (d : BitVec 6) (r : Words8) : (s.setTree b d r).leafAt = s.leafAt := rfl
@[simp] theorem State.setTree_leafList (b : Bool) (d : BitVec 6) (r : Words8) : (s.setTree b d r).leafList = s.leafList := rfl
@[simp] theorem State.setLeafCnt_srcAddr (n : Word) : (s.setLeafCnt n).srcAddr = s.srcAddr := rfl
@[simp] theorem State.setLeafCnt_dstAddr (n : Word) : (s.setLeafCnt n).dstAddr = s.dstAddr := rfl
@[simp] theorem State.setLeafCnt_ptr2Addr (n : Word) : (s.setLeafCnt n).ptr2Addr = s.ptr2Addr := rfl
@[simp] theorem State.setLeafCnt_lenVal (n : Word) : (s.setLeafCnt n).lenVal = s.lenVal := rfl
@[simp] theorem State.setLeafCnt_auxVal (n : Word) : (s.setLeafCnt n).auxVal = s.auxVal := rfl
@[simp] theorem State.setLeafCnt_regionOk (n : Word) (p k : Nat) : (s.setLeafCnt n).regionOk p k = s.regionOk p k := rfl
@[simp] theorem State.setLeafCnt_checkRegion (n : Word) (p k : Nat) : (s.setLeafCnt n).checkRegion p k = s.checkRegion p k := rfl
@[simp] theorem State.setLeafCnt_leafAt (n : Word) : (s.setLeafCnt n).leafAt = s.leafAt := rfl
@[simp] theorem State.setLeaf_srcAddr (i : Nat) (d : Words8) : (s.setLeaf i d).srcAddr = s.srcAddr := rfl
@[simp] theorem State.setLeaf_dstAddr (i : Nat) (d : Words8) : (s.setLeaf i d).dstAddr = s.dstAddr := rfl
@[simp] theorem State.setLeaf_ptr2Addr (i : Nat) (d : Words8) : (s.setLeaf i d).ptr2Addr = s.ptr2Addr := rfl
@[simp] theorem State.setLeaf_lenVal (i : Nat) (d : Words8) : (s.setLeaf i d).lenVal = s.lenVal := rfl
@[simp] theorem State.setLeaf_auxVal (i : Nat) (d : Words8) : (s.setLeaf i d).auxVal = s.auxVal := rfl
@[simp] theorem State.setLeaf_regionOk (i : Nat) (d : Words8) (p k : Nat) : (s.setLeaf i d).regionOk p k = s.regionOk p k := rfl
@[simp] theorem State.setLeaf_checkRegion (i : Nat) (d : Words8) (p k : Nat) : (s.setLeaf i d).checkRegion p k = s.checkRegion p k := rfl
@[simp] theorem State.setStale_srcAddr : (s.setStale).srcAddr = s.srcAddr := rfl
@[simp] theorem State.setStale_dstAddr : (s.setStale).dstAddr = s.dstAddr := rfl
@[simp] theorem State.setStale_ptr2Addr : (s.setStale).ptr2Addr = s.ptr2Addr := rfl
@[simp] theorem State.setStale_lenVal : (s.setStale).lenVal = s.lenVal := rfl
@[simp] theorem State.setStale_auxVal : (s.setStale).auxVal = s.auxVal := rfl
@[simp] theorem State.setStale_regionOk (p k : Nat) : (s.setStale).regionOk p k = s.regionOk p k := rfl
@[simp] theorem State.setStale_checkRegion (p k : Nat) : (s.setStale).checkRegion p k = s.checkRegion p k := rfl
@[simp] theorem State.setStale_leafAt : (s.setStale).leafAt = s.leafAt := rfl
@[simp] theorem State.setStale_leafList : (s.setStale).leafList = s.leafList := rfl
@[simp] theorem State.abandon_srcAddr : (s.abandon).srcAddr = s.srcAddr := rfl
@[simp] theorem State.abandon_dstAddr : (s.abandon).dstAddr = s.dstAddr := rfl
@[simp] theorem State.abandon_ptr2Addr : (s.abandon).ptr2Addr = s.ptr2Addr := rfl
@[simp] theorem State.abandon_lenVal : (s.abandon).lenVal = s.lenVal := rfl
@[simp] theorem State.abandon_auxVal : (s.abandon).auxVal = s.auxVal := rfl
@[simp] theorem State.abandon_regionOk (p k : Nat) : (s.abandon).regionOk p k = s.regionOk p k := rfl
@[simp] theorem State.abandon_checkRegion (p k : Nat) : (s.abandon).checkRegion p k = s.checkRegion p k := rfl
@[simp] theorem State.abandon_leafAt : (s.abandon).leafAt = s.leafAt := rfl
@[simp] theorem State.abandon_leafList : (s.abandon).leafList = s.leafList := rfl
@[simp] theorem State.scramble_srcAddr : (s.scramble).srcAddr = s.srcAddr := rfl
@[simp] theorem State.scramble_dstAddr : (s.scramble).dstAddr = s.dstAddr := rfl
@[simp] theorem State.scramble_ptr2Addr : (s.scramble).ptr2Addr = s.ptr2Addr := rfl
@[simp] theorem State.scramble_lenVal : (s.scramble).lenVal = s.lenVal := rfl
@[simp] theorem State.scramble_auxVal : (s.scramble).auxVal = s.auxVal := rfl
@[simp] theorem State.scramble_regionOk (p k : Nat) : (s.scramble).regionOk p k = s.regionOk p k := rfl
@[simp] theorem State.scramble_checkRegion (p k : Nat) : (s.scramble).checkRegion p k = s.checkRegion p k := rfl
@[simp] theorem State.scramble_leafAt : (s.scramble).leafAt = s.leafAt := rfl
@[simp] theorem State.scramble_leafList : (s.scramble).leafList = s.leafList := rfl
@[simp] theorem State.succeed_srcAddr : (s.succeed).srcAddr = s.srcAddr := rfl
@[simp] theorem State.succeed_dstAddr : (s.succeed).dstAddr = s.dstAddr := rfl
@[simp] theorem State.succeed_ptr2Addr : (s.succeed).ptr2Addr = s.ptr2Addr := rfl
@[simp] theorem State.succeed_lenVal : (s.succeed).lenVal = s.lenVal := rfl
@[simp] theorem State.succeed_auxVal : (s.succeed).auxVal = s.auxVal := rfl
@[simp] theorem State.succeed_regionOk (p k : Nat) : (s.succeed).regionOk p k = s.regionOk p k := rfl
@[simp] theorem State.succeed_checkRegion (p k : Nat) : (s.succeed).checkRegion p k = s.checkRegion p k := rfl
@[simp] theorem State.succeed_leafAt : (s.succeed).leafAt = s.leafAt := rfl
@[simp] theorem State.succeed_leafList : (s.succeed).leafList = s.leafList := rfl
@[simp] theorem State.raise_srcAddr (e : Code) : (s.raise e).srcAddr = s.srcAddr := rfl
@[simp] theorem State.raise_dstAddr (e : Code) : (s.raise e).dstAddr = s.dstAddr := rfl
@[simp] theorem State.raise_ptr2Addr (e : Code) : (s.raise e).ptr2Addr = s.ptr2Addr := rfl
@[simp] theorem State.raise_lenVal (e : Code) : (s.raise e).lenVal = s.lenVal := rfl
@[simp] theorem State.raise_auxVal (e : Code) : (s.raise e).auxVal = s.auxVal := rfl
@[simp] theorem State.raise_regionOk (e : Code) (p k : Nat) : (s.raise e).regionOk p k = s.regionOk p k := rfl
@[simp] theorem State.raise_checkRegion (e : Code) (p k : Nat) : (s.raise e).checkRegion p k = s.checkRegion p k := rfl
@[simp] theorem State.raise_leafAt (e : Code) : (s.raise e).leafAt = s.leafAt := rfl
@[simp] theorem State.raise_leafList (e : Code) : (s.raise e).leafList = s.leafList := rfl
@[simp] theorem State.writeStatus_srcAddr (x : Word) : (s.writeStatus x).srcAddr = s.srcAddr := rfl
@[simp] theorem State.writeStatus_dstAddr (x : Word) : (s.writeStatus x).dstAddr = s.dstAddr := rfl
@[simp] theorem State.writeStatus_ptr2Addr (x : Word) : (s.writeStatus x).ptr2Addr = s.ptr2Addr := rfl
@[simp] theorem State.writeStatus_lenVal (x : Word) : (s.writeStatus x).lenVal = s.lenVal := rfl
@[simp] theorem State.writeStatus_auxVal (x : Word) : (s.writeStatus x).auxVal = s.auxVal := rfl
@[simp] theorem State.writeStatus_regionOk (x : Word) (p k : Nat) : (s.writeStatus x).regionOk p k = s.regionOk p k := rfl
@[simp] theorem State.writeStatus_checkRegion (x : Word) (p k : Nat) : (s.writeStatus x).checkRegion p k = s.checkRegion p k := rfl
@[simp] theorem State.writeStatus_leafAt (x : Word) : (s.writeStatus x).leafAt = s.leafAt := rfl
@[simp] theorem State.writeStatus_leafList (x : Word) : (s.writeStatus x).leafList = s.leafList := rfl
@[simp] theorem State.writeAuxLo_srcAddr (x : Word) : (s.writeAuxLo x).srcAddr = s.srcAddr := rfl
@[simp] theorem State.writeAuxLo_dstAddr (x : Word) : (s.writeAuxLo x).dstAddr = s.dstAddr := rfl
@[simp] theorem State.writeAuxLo_ptr2Addr (x : Word) : (s.writeAuxLo x).ptr2Addr = s.ptr2Addr := rfl
@[simp] theorem State.writeAuxLo_lenVal (x : Word) : (s.writeAuxLo x).lenVal = s.lenVal := rfl
@[simp] theorem State.writeAuxLo_regionOk (x : Word) (p k : Nat) : (s.writeAuxLo x).regionOk p k = s.regionOk p k := rfl
@[simp] theorem State.writeAuxLo_checkRegion (x : Word) (p k : Nat) : (s.writeAuxLo x).checkRegion p k = s.checkRegion p k := rfl
@[simp] theorem State.writeAuxLo_leafAt (x : Word) : (s.writeAuxLo x).leafAt = s.leafAt := rfl
@[simp] theorem State.writeAuxLo_leafList (x : Word) : (s.writeAuxLo x).leafList = s.leafList := rfl
@[simp] theorem State.writeAuxHi_srcAddr (x : Word) : (s.writeAuxHi x).srcAddr = s.srcAddr := rfl
@[simp] theorem State.writeAuxHi_dstAddr (x : Word) : (s.writeAuxHi x).dstAddr = s.dstAddr := rfl
@[simp] theorem State.writeAuxHi_ptr2Addr (x : Word) : (s.writeAuxHi x).ptr2Addr = s.ptr2Addr := rfl
@[simp] theorem State.writeAuxHi_lenVal (x : Word) : (s.writeAuxHi x).lenVal = s.lenVal := rfl
@[simp] theorem State.writeAuxHi_regionOk (x : Word) (p k : Nat) : (s.writeAuxHi x).regionOk p k = s.regionOk p k := rfl
@[simp] theorem State.writeAuxHi_checkRegion (x : Word) (p k : Nat) : (s.writeAuxHi x).checkRegion p k = s.checkRegion p k := rfl
@[simp] theorem State.writeAuxHi_leafAt (x : Word) : (s.writeAuxHi x).leafAt = s.leafAt := rfl
@[simp] theorem State.writeAuxHi_leafList (x : Word) : (s.writeAuxHi x).leafList = s.leafList := rfl
@[simp] theorem State.logRead_srcAddr (r : HostRead) : (s.logRead r).srcAddr = s.srcAddr := rfl
@[simp] theorem State.logRead_dstAddr (r : HostRead) : (s.logRead r).dstAddr = s.dstAddr := rfl
@[simp] theorem State.logRead_ptr2Addr (r : HostRead) : (s.logRead r).ptr2Addr = s.ptr2Addr := rfl
@[simp] theorem State.logRead_lenVal (r : HostRead) : (s.logRead r).lenVal = s.lenVal := rfl
@[simp] theorem State.logRead_auxVal (r : HostRead) : (s.logRead r).auxVal = s.auxVal := rfl
@[simp] theorem State.logRead_regionOk (r : HostRead) (p k : Nat) : (s.logRead r).regionOk p k = s.regionOk p k := rfl
@[simp] theorem State.logRead_checkRegion (r : HostRead) (p k : Nat) : (s.logRead r).checkRegion p k = s.checkRegion p k := rfl
@[simp] theorem State.logRead_leafAt (r : HostRead) : (s.logRead r).leafAt = s.leafAt := rfl
@[simp] theorem State.logRead_leafList (r : HostRead) : (s.logRead r).leafList = s.leafList := rfl

end Sys2Proof.Machine
end

