-- ==== Sys2Proof/Laws/Store.lean ====
section
/-! SUPPORT. What a write to a sparse store and to MEM does: reads after it, and the canonical form. -/

namespace Sys2Proof.Machine

section store
variable {α : Type}

theorem storeGet_storeSet_self (m : List (Nat × α)) (k : Nat) (x : α) : storeGet (storeSet m k x) k = some x := by
  induction m with
  | nil => simp [storeSet, storeGet]
  | cons c m ih =>
    obtain ⟨k', x'⟩ := c
    unfold storeSet
    split
    · simp [storeGet]
    · split
      · simp [storeGet]
      · next h => simp [storeGet, ih, h]

theorem storeGet_storeSet_of_ne (m : List (Nat × α)) {k a : Nat} (x : α) (h : a ≠ k) :
    storeGet (storeSet m k x) a = storeGet m a := by
  induction m with
  | nil => simp [storeSet, storeGet, h]
  | cons c m ih =>
    obtain ⟨k', x'⟩ := c
    unfold storeSet
    split
    · simp [storeGet, h]
    · split
      · next hk => subst hk; simp [storeGet, h]
      · simp [storeGet, ih]

/-- The entries of a store after a write: the new one and old ones. -/
theorem mem_storeSet {m : List (Nat × α)} {k : Nat} {x : α} {c : Nat × α} (h : c ∈ storeSet m k x) :
    c = (k, x) ∨ c ∈ m := by
  induction m with
  | nil => simpa [storeSet] using h
  | cons d m ih =>
    obtain ⟨k', x'⟩ := d
    unfold storeSet at h
    split at h
    · simpa using h
    · split at h
      · rcases List.mem_cons.mp h with h | h
        · exact .inl h
        · exact .inr (List.mem_cons_of_mem _ h)
      · rcases List.mem_cons.mp h with h | h
        · exact .inr (h ▸ List.mem_cons_self)
        · exact (ih h).imp id (List.mem_cons_of_mem _)

theorem storeWf_storeSet {m : List (Nat × α)} (k : Nat) (x : α) (h : storeWf m = true) :
    storeWf (storeSet m k x) = true := by
  unfold storeWf at *
  rw [decide_eq_true_eq] at *
  induction m with
  | nil => simp [storeSet]
  | cons d m ih =>
    obtain ⟨k', x'⟩ := d
    obtain ⟨hd, hm⟩ := List.pairwise_cons.mp h
    unfold storeSet
    split
    · next hlt =>
      refine List.pairwise_cons.mpr ⟨fun c hc => ?_, h⟩
      rcases List.mem_cons.mp hc with rfl | hc
      · exact hlt
      · exact lt_trans hlt (hd c hc)
    · split
      · next _ heq => subst heq; exact List.pairwise_cons.mpr ⟨hd, hm⟩
      · refine List.pairwise_cons.mpr ⟨fun c hc => ?_, ih hm⟩
        rcases mem_storeSet hc with rfl | hc
        · show k' < k; omega
        · exact hd c hc

end store

/-- A write leaves every other address alone. -/
theorem Memory.read_write_of_outside (bs : List Byte) :
    ∀ (m : Memory) (a b : Nat), (b < a ∨ a + bs.length ≤ b) → (m.write a bs).read b = m.read b := by
  induction bs with
  | nil => intros; rfl
  | cons x bs ih =>
    intro m a b h
    have hne : b ≠ a := by rw [List.length_cons] at h; omega
    show (Memory.write (storeSet m a x) (a + 1) bs).read b = m.read b
    rw [ih _ _ _ (by rw [List.length_cons] at h; omega)]
    exact storeGet_storeSet_of_ne m x hne

/-- A read after a write gives the byte written. -/
theorem Memory.read_write_of_inside (bs : List Byte) :
    ∀ (m : Memory) (a k : Nat), k < bs.length → (m.write a bs).read (a + k) = bs[k]? := by
  induction bs with
  | nil => intro _ _ _ h; simp at h
  | cons x bs ih =>
    intro m a k h
    show (Memory.write (storeSet m a x) (a + 1) bs).read (a + k) = _
    cases k with
    | zero =>
      rw [Memory.read_write_of_outside _ _ _ _ (by omega)]
      exact storeGet_storeSet_self m a x
    | succ k =>
      have := ih (storeSet m a x) (a + 1) k (by simpa using h)
      rw [show a + (k + 1) = a + 1 + k by omega, this, List.getElem?_cons_succ]

theorem Memory.wf_write (bs : List Byte) : ∀ (m : Memory) (a : Nat), m.wf = true → (m.write a bs).wf = true := by
  induction bs with
  | nil => intro _ _ h; exact h
  | cons x bs ih => intro m a h; exact ih _ _ (storeWf_storeSet a x h)

/-- The cells of MEM after a write: old ones, and ones inside the region written. -/
theorem Memory.mem_write (bs : List Byte) :
    ∀ (m : Memory) (a : Nat) (c : Host.Cell), c ∈ m.write a bs → c ∈ m ∨ (a ≤ c.1 ∧ c.1 < a + bs.length) := by
  induction bs with
  | nil => intro _ _ _ h; exact .inl h
  | cons x bs ih =>
    intro m a c h
    rcases ih _ _ _ h with h | h
    · rcases mem_storeSet h with rfl | h
      · exact .inr (by simp)
      · exact .inl h
    · exact .inr (by rw [List.length_cons]; omega)

end Sys2Proof.Machine
end

