-- ==== Sys2Proof/Laws/Ops.lean ====
section
/-! SUPPORT. What the shared operations can do, said once: MemRead, the checks of a command, and how it ends. -/

namespace Sys2Proof.Machine

@[simp] theorem State.readBytes_length (s : State) (a n : Nat) : (s.readBytes a n).length = n := by
  simp [State.readBytes]

/-- MemRead depends on MEM and the draw count alone. -/
theorem State.readBytes_congr {s t : State} (hm : s.mem = t.mem) (hd : s.draws = t.draws) (a n : Nat) :
    s.readBytes a n = t.readBytes a n := by
  simp [State.readBytes, State.byteOr, hm, hd]

theorem State.byteOr_of_written {s : State} {a : Nat} {b : Byte} (h : s.mem.read a = some b) (k : Nat) :
    s.byteOr a k = b := by
  simp [State.byteOr, h]

@[simp] theorem State.useDatapath_eq (s : State) : s.useDatapath = s.abandon.scramble := rfl

theorem State.checkRegion_eq (s : State) (a n : Nat) :
    s.checkRegion a n = (!decide (n = 0 ∨ a + n ≤ s.params.memBytes), Code.addrRange) := rfl

@[simp] theorem firstError_nil : firstError [] = none := rfl

@[simp] theorem firstError_cons (b : Bool) (e : Code) (cs : List (Bool × Code)) :
    firstError ((b, e) :: cs) = if b then some e else firstError cs := rfl

/-- The checks pass exactly when none of them fails. -/
theorem firstError_eq_none {cs : List (Bool × Code)} : firstError cs = none ↔ ∀ c ∈ cs, c.1 = false := by
  induction cs with
  | nil => simp
  | cons c cs ih =>
    obtain ⟨b, e⟩ := c
    cases b <;> simp [ih]

/-- A failing list of checks names the code of one of them. -/
theorem firstError_mem {cs : List (Bool × Code)} {e : Code} (h : firstError cs = some e) : (true, e) ∈ cs := by
  induction cs with
  | nil => simp at h
  | cons c cs ih =>
    obtain ⟨b, e'⟩ := c
    cases b with
    | true => simp only [firstError_cons, if_true, Option.some.injEq] at h; subst h; exact List.mem_cons_self
    | false => exact List.mem_cons_of_mem _ (ih (by simpa using h))

/-- A guarded command either raises the code of a failing check, with nothing else changed, or goes on. -/
theorem State.guarded_cases (s : State) (cs : List (Bool × Code)) (k : State → State) :
    (∃ e, firstError cs = some e ∧ (true, e) ∈ cs ∧ s.guarded cs k = s.raise e) ∨
      ((∀ c ∈ cs, c.1 = false) ∧ s.guarded cs k = k s) := by
  cases h : firstError cs with
  | none => exact .inr ⟨firstError_eq_none.mp h, by simp [State.guarded, h]⟩
  | some e => exact .inl ⟨e, rfl, firstError_mem h, by simp [State.guarded, h]⟩

/-- What a command can do (R500): raise a failing check's code on the state it found, or apply its effect and succeed. -/
theorem State.perform_cases (s : State) (cs : List (Bool × Code)) (f : State → State) :
    (∃ e, firstError cs = some e ∧ (true, e) ∈ cs ∧ s.perform cs f = s.raise e) ∨
      ((∀ c ∈ cs, c.1 = false) ∧ s.perform cs f = (f s).succeed) :=
  s.guarded_cases cs fun s => (f s).succeed

theorem State.perform_of_none {s : State} {cs : List (Bool × Code)} (h : firstError cs = none) (f : State → State) :
    s.perform cs f = (f s).succeed := by
  simp [State.perform, State.guarded, h]

theorem State.perform_of_some {s : State} {cs : List (Bool × Code)} {e : Code} (h : firstError cs = some e)
    (f : State → State) : s.perform cs f = s.raise e := by
  simp [State.perform, State.guarded, h]

end Sys2Proof.Machine
end

