-- ==== Sys2Proof/Laws/PerInstr.lean ====
section
/-! SUPPORT. Facts about every instruction as syntax, one lemma per constructor (LAWS.json). -/

namespace Sys2Proof.Laws.EncodedWordValid

/-- The word of a well-formed instruction passes the three checks of 30_encoding.md R151. -/
def Statement (i : Instr) : Prop := i.wellFormed = true → validWord (encode i) = true

theorem init : Statement .init := fun _ => by decide
theorem ldst : Statement .ldst := fun _ => by decide
theorem stst : Statement .stst := fun _ => by decide
theorem hexst : Statement .hexst := fun _ => by decide
theorem pad (l : Bool) : Statement (.pad l) := fun _ => by cases l <;> decide
theorem padt : Statement .padt := fun _ => by decide
theorem expd : Statement .expd := fun _ => by decide
theorem blkb : Statement .blkb := fun _ => by decide
theorem rstep : Statement .rstep := fun _ => by decide
theorem blke : Statement .blke := fun _ => by decide
theorem cmpr : Statement .cmpr := fun _ => by decide
theorem hash : Statement .hash := fun _ => by decide
theorem hashx : Statement .hashx := fun _ => by decide
theorem staf : Statement .staf := fun _ => by decide
theorem mkclr : Statement .mkclr := fun _ => by decide
theorem mkleaf : Statement .mkleaf := fun _ => by decide
theorem mkbld : Statement .mkbld := fun _ => by decide
theorem mkprv : Statement .mkprv := fun _ => by decide
theorem mkprh : Statement .mkprh := fun _ => by decide
theorem mkvfy : Statement .mkvfy := fun _ => by decide
theorem lefg : Statement .lefg := fun _ => by decide

end Sys2Proof.Laws.EncodedWordValid
end

