-- ==== Sys2Proof/Machine/Assembly.lean ====
section
/-! DEFINITION. The host-program notation of 30_encoding.md R157 and the pseudo-instructions of R158, as the host steps they
stand for. -/

namespace Sys2Proof.Machine

/-- `wr REG, v` (R157). -/
def asmWr (r : Reg) (x : Word) : List HostOp := [.mmioWrite 32 r.offset x]

/-- `rd REG` (R157). -/
def asmRd (r : Reg) : List HostOp := [.mmioRead 32 r.offset]

/-- `.cmd v` (R157): a raw CMD write. -/
def asmRaw (x : Word) : List HostOp := asmWr .cmd x

/-- `MNEMONIC` (R157): a CMD write of the command's word. -/
def asmCmd (i : Instr) : List HostOp := asmRaw (encode i)

/-- `.mem a, bytes` (R157): host writes of bytes to MEM. -/
def asmMem (a : Nat) : List Byte → List HostOp
  | [] => []
  | b :: bs => .memWrite a b :: asmMem (a + 1) bs

/-- `.rep n ... .endr` (R157). -/
def asmRep (n : Nat) (body : List HostOp) : List HostOp := (List.replicate n body).flatten

/-- `setaux v` (R158). -/
def asmSetaux (x : BitVec 64) : List HostOp := asmWr .auxLo (x.extractLsb' 0 32) ++ asmWr .auxHi (x.extractLsb' 32 32)

/-- `clrerr` (R158). -/
def asmClrerr : List HostOp := asmWr .status 0x00000100

/-- `strat s` (R158). -/
def asmStrat (x : Word) : List HostOp := asmWr .config x

/-- `hash dst, src, len` (R158). -/
def asmHash (dst src len : Word) : List HostOp := asmWr .src src ++ asmWr .len len ++ asmWr .dst dst ++ asmCmd .hash

/-- `hashx dst, src, len` (R158). -/
def asmHashx (dst src len : Word) : List HostOp := asmWr .src src ++ asmWr .len len ++ asmWr .dst dst ++ asmCmd .hashx

/-- `stateafter src, len` (R158). -/
def asmStateafter (src len : Word) : List HostOp := asmWr .src src ++ asmWr .len len ++ asmCmd .staf

/-- `compress src, n` (R158): n blocks. DESIGN CHOICE (assumption 19): where 64 * n is no 32-bit value, LEN is written with
64 * n modulo 2^32. -/
def asmCompress (src n : Word) : List HostOp := asmWr .src src ++ asmWr .len (64 * n) ++ asmCmd .cmpr

/-- `pad dst, src, len` (R158). -/
def asmPad (dst src len : Word) : List HostOp :=
  asmWr .src src ++ asmWr .len len ++ asmWr .dst dst ++ asmCmd (.pad false)

/-- `padfor dst, src, len, total` (R158). -/
def asmPadfor (dst src len : Word) (total : BitVec 64) : List HostOp :=
  asmWr .src src ++ asmWr .len len ++ asmWr .dst dst ++ asmSetaux total ++ asmCmd (.pad true)

/-- `padtail dst, L` (R158). -/
def asmPadtail (dst : Word) (l : BitVec 64) : List HostOp := asmWr .dst dst ++ asmSetaux l ++ asmCmd .padt

/-- `block src` (R158): one block by rounds. -/
def asmBlock (src : Word) : List HostOp :=
  asmWr .src src ++ asmCmd .blkb ++ asmRep 64 (asmCmd .rstep) ++ asmCmd .blke

/-- `leaf src, len` (R158). -/
def asmLeaf (src len : Word) : List HostOp := asmWr .src src ++ asmWr .len len ++ asmCmd .mkleaf

/-- `prove dst, idx` (R158). -/
def asmProve (dst : Word) (idx : BitVec 64) : List HostOp := asmWr .dst dst ++ asmSetaux idx ++ asmCmd .mkprv

/-- `verify leaf, proof, root` (R158). -/
def asmVerify (leaf proof root : Word) : List HostOp :=
  asmWr .src leaf ++ asmWr .ptr2 proof ++ asmWr .dst root ++ asmCmd .mkvfy

/-- `forge dst, digest, L, src, len` (R158). -/
def asmForge (dst digest : Word) (l : BitVec 64) (src len : Word) : List HostOp :=
  asmWr .ptr2 digest ++ asmSetaux l ++ asmWr .src src ++ asmWr .len len ++ asmWr .dst dst ++ asmCmd .lefg

end Sys2Proof.Machine
end

