-- ==== Sys2Proof/Tests/Slice0.lean ====
section
/-! SUPPORT. The model's own tests. Expected values come from the spec: the opcode map (30_encoding.md R152), the worked
examples of the rules and the vectors of 95_test_vectors.md, named at each test. The witnesses at the end show, for every
obligation that has hypotheses, states that meet them, at the boundaries of each clause. -/

namespace Sys2Proof.Machine.Tests

/-! ### Helpers -/

/-- A machine with MEM_BYTES = 0x1000 and MAX_LEAVES = 5, otherwise as after reset (95_test_vectors.md, its preamble). -/
def base : State := { State.reset with params := ⟨0x1000, 5⟩ }

/-- `base` with the operand registers written. -/
def ops (src len dst ptr2 : Word) (aux : BitVec 64) : State :=
  { base with src := src, len := len, dst := dst, ptr2 := ptr2, aux := aux }

/-- A state with some bytes written to MEM. -/
def State.store (s : State) (a : Nat) (bs : List Byte) : State := { s with mem := s.mem.write a bs }

/-- One field of the state after a command; `none` if the command did not end in a next state. -/
def after {α : Type} (i : Instr) (s : State) (f : State → α) : Option α :=
  match exec i s with
  | .next t => some (f t)
  | .fault _ => none
  | .refused _ => none

/-- One field of the state after a host step. -/
def afterHost {α : Type} (op : HostOp) (s : State) (f : State → α) : Option α :=
  match hostStep op s with
  | .next t => some (f t)
  | .fault _ => none
  | .refused _ => none

def zero8 : Words8 := ⟨0, 0, 0, 0, 0, 0, 0, 0⟩

def zeros (n : Nat) : List Byte := List.replicate n 0

/-- "abc" (V-FAC-2). -/
def abc : List Byte := [0x61, 0x62, 0x63]

/-- The padded block of "abc" (V-PAD-2). -/
def abcBlock : List Byte := [0x61, 0x62, 0x63, 0x80] ++ zeros 52 ++ [0, 0, 0, 0, 0, 0, 0, 0x18]

/-- The final HashState of "abc" (V-CMP-3). -/
def abcState : Words8 :=
  ⟨0x66C7F0F4, 0x62EEEDD9, 0xD1F2D46B, 0xDC10E4E2, 0x4167C487, 0x5CF2F7A2, 0x297DA02B, 0x8F4BA8E0⟩

/-- The digest of "abc" (V-FAC-2). -/
def abcDigest : List Byte :=
  [0x66, 0xC7, 0xF0, 0xF4, 0x62, 0xEE, 0xED, 0xD9, 0xD1, 0xF2, 0xD4, 0x6B, 0xDC, 0x10, 0xE4, 0xE2]
    ++ [0x41, 0x67, 0xC4, 0x87, 0x5C, 0xF2, 0xF7, 0xA2, 0x29, 0x7D, 0xA0, 0x2B, 0x8F, 0x4B, 0xA8, 0xE0]

/-- l_a = SM3("a") (V-FAC-3). -/
def leafA : Words8 :=
  ⟨0x623476AC, 0x18F65A29, 0x09E43C7F, 0xEC61B49C, 0x7E764A91, 0xA18CCB82, 0xF1917A29, 0xC86C5E88⟩

/-- l_b = SM3("b") (V-MRK). -/
def leafB : Words8 :=
  ⟨0x18EC3B71, 0x5647A14C, 0x4B5D7FE8, 0x70F6AC23, 0x7C61BBCF, 0x8D56062A, 0x74F0824B, 0x5218A042⟩

/-- N_ab, the root over l_a and l_b (V-MRK-1, n = 2). -/
def rootAB : Words8 :=
  ⟨0xD6F351BF, 0x2379844C, 0x9C89FFD4, 0x3D8979B4, 0xCA7AEFD0, 0x7C3C4D86, 0x95CDA344, 0x56B01320⟩

/-- "abc" at 0x100 as SRC, with DST = 0x200. -/
def abcOps : State := State.store (ops 0x100 3 0x200 0 0) 0x100 abc

/-- The padded "abc" block at 0x200 as SRC. -/
def blockOps : State := State.store (ops 0x200 64 0x300 0 0) 0x200 abcBlock

/-- The tree over l_a, l_b, built (V-MRK-1, n = 2). -/
def treeAB (s : State) : State :=
  { s with leaf := [(0, leafA), (1, leafB)], leafCnt := 2, built := true, depth := 1, root := rootAB }

/-! ### Decoding: words written out bit by bit, RSV FLAGS OPC (R150, R152) -/

theorem test_decode_init : decode 0b0000000000000000_00000000_00000001 = .ok .init := by decide
theorem test_decode_ldst : decode 0b0000000000000000_00000000_00000010 = .ok .ldst := by decide
theorem test_decode_stst : decode 0b0000000000000000_00000000_00000011 = .ok .stst := by decide
theorem test_decode_hexst : decode 0b0000000000000000_00000000_00000100 = .ok .hexst := by decide
theorem test_decode_pad : decode 0b0000000000000000_00000000_00010000 = .ok (.pad false) := by decide
theorem test_decode_padL : decode 0b0000000000000000_00000001_00010000 = .ok (.pad true) := by decide
theorem test_decode_padt : decode 0b0000000000000000_00000000_00010001 = .ok .padt := by decide
theorem test_decode_expd : decode 0b0000000000000000_00000000_00010010 = .ok .expd := by decide
theorem test_decode_blkb : decode 0b0000000000000000_00000000_00010011 = .ok .blkb := by decide
theorem test_decode_rstep : decode 0b0000000000000000_00000000_00010100 = .ok .rstep := by decide
theorem test_decode_blke : decode 0b0000000000000000_00000000_00010101 = .ok .blke := by decide
theorem test_decode_cmpr : decode 0b0000000000000000_00000000_00010110 = .ok .cmpr := by decide
theorem test_decode_hash : decode 0b0000000000000000_00000000_00100000 = .ok .hash := by decide
theorem test_decode_hashx : decode 0b0000000000000000_00000000_00100001 = .ok .hashx := by decide
theorem test_decode_staf : decode 0b0000000000000000_00000000_00100010 = .ok .staf := by decide
theorem test_decode_mkclr : decode 0b0000000000000000_00000000_00110000 = .ok .mkclr := by decide
theorem test_decode_mkleaf : decode 0b0000000000000000_00000000_00110001 = .ok .mkleaf := by decide
theorem test_decode_mkbld : decode 0b0000000000000000_00000000_00110010 = .ok .mkbld := by decide
theorem test_decode_mkprv : decode 0b0000000000000000_00000000_00110011 = .ok .mkprv := by decide
theorem test_decode_mkprh : decode 0b0000000000000000_00000000_00110100 = .ok .mkprh := by decide
theorem test_decode_mkvfy : decode 0b0000000000000000_00000000_00110101 = .ok .mkvfy := by decide
theorem test_decode_lefg : decode 0b0000000000000000_00000000_01000000 = .ok .lefg := by decide

/-! ### WellFormed smoke: one ill-formed word for each check of R151 (V-ERR-1 to V-ERR-5) -/

theorem test_illformed_opcode : opcodeListed 0x00000005 = false ∧ validWord 0x00000005 = false := by decide
theorem test_illformed_zero : validWord 0x00000000 = false ∧ decode 0x00000000 = .error .reservedOpcode := by decide
theorem test_illformed_rsv : rsvZero 0x00010001 = false ∧ validWord 0x00010001 = false := by decide
theorem test_illformed_flags : flagsDefined 0x00000101 = false ∧ validWord 0x00000101 = false := by decide
theorem test_illformed_pad_flags : flagsDefined 0x00000310 = false ∧ validWord 0x00000310 = false := by decide
theorem test_decodeTableWord_wide : decodeTableWord 64 0x100000001 = none := by decide

/-! ### Primitives (V-PRM) -/

theorem test_be32 : be32 0x61 0x62 0x63 0x80 = 0x61626380 := by decide
theorem test_unbe32 : unbe32 0x66C7F0F4 = [0x66, 0xC7, 0xF0, 0xF4] := by decide
theorem test_be64 : be64 (8 * (2 ^ 61 - 1)) = [0xFF, 0xFF, 0xFF, 0xFF, 0xFF, 0xFF, 0xFF, 0xF8] := by decide
theorem test_rotl : rotl 0x12345678 12 = 0x45678123 ∧ rotl 0x12345678 32 = 0x12345678 ∧
    rotl 0x12345678 33 = 0x2468ACF0 := by decide
theorem test_p0 : p0 0x12345678 = 0xD6688234 := by decide
theorem test_p1 : p1 0x12345678 = 0x05014549 := by decide
theorem test_ff : ff 0x12345678 0x9ABCDEF0 0x0F0F0F0F 15 = 0x87878787 ∧
    ff 0x12345678 0x9ABCDEF0 0x0F0F0F0F 16 = 0x1A3C5E78 := by decide
theorem test_gg : gg 0x12345678 0x9ABCDEF0 0x0F0F0F0F 15 = 0x87878787 ∧
    gg 0x12345678 0x9ABCDEF0 0x0F0F0F0F 16 = 0x1F3F5F77 := by decide
theorem test_tr : tr 15 = 0x228CBCE6 ∧ tr 16 = 0x9D8A7A87 ∧ tr 32 = 0x7A879D8A ∧ tr 63 = 0x3D43CEC5 := by decide
theorem test_padLen : padLen 55 = 64 ∧ padLen 56 = 128 ∧ padLen 119 = 128 ∧ padLen 1000 = 1024 := by decide

/-! ### Commands -/

/-- R353, R314: INIT closes an open sequence and loads the IV. -/
theorem test_init : after .init { base with v := zero8, cfact := true, rnd := 20 } (fun t => (t.v.a, t.cfact, t.rnd))
    = some (0x7380166F, false, 0) := by decide

/-- R354, its example: the digest of "abc" at SRC. -/
theorem test_ldst : after .ldst (State.store (ops 0x100 0 0 0 0) 0x100 abcDigest) (fun t => t.v) = some abcState := by
  decide +kernel

/-- V-ERR-13: LDST with SRC = MEM_BYTES - 31. -/
theorem test_ldst_range : after .ldst (ops 0xFE1 0 0 0 0) (fun t => (t.code, t.err)) = some (.addrRange, true) := by
  decide

/-- V-FAC-13: STST after INIT, its first and last words. -/
theorem test_stst : after .stst (ops 0 0 0x900 0 0) (fun t => (t.readBytes 0x900 4, t.readBytes 0x91C 4))
    = some ([0x73, 0x80, 0x16, 0x6F], [0xB0, 0xFB, 0x0E, 0x4E]) := by decide +kernel

/-- R356, its example: the hex of the "abc" state; V-FAC-12: it ends 38 45 30. -/
theorem test_hexst : after .hexst { ops 0 0 0x840 0 0 with v := abcState }
    (fun t => (t.readBytes 0x840 8, t.readBytes 0x87D 3))
    = some ([0x36, 0x36, 0x43, 0x37, 0x46, 0x30, 0x46, 0x34], [0x38, 0x45, 0x30]) := by decide +kernel

/-- V-PAD-7: padding in place (R109). -/
theorem test_pad_in_place : after (.pad false) (State.store (ops 0x200 3 0x200 0 0) 0x200 abc)
    (fun t => (t.readBytes 0x200 64, t.result)) = some (abcBlock, 64) := by decide +kernel

/-- V-PAD-5: the length field follows AUX, the zero count LEN. -/
theorem test_padL : after (.pad true) (State.store (ops 0x100 3 0x200 0 67) 0x100 [0x58, 0x59, 0x5A])
    (fun t => (t.readBytes 0x200 4, t.readBytes 0x238 8, t.result))
    = some ([0x58, 0x59, 0x5A, 0x80], [0, 0, 0, 0, 0, 0, 0x02, 0x18], 64) := by decide +kernel

/-- V-PAD-6: AUX = 55 writes the minimum of 9 bytes, be64(440) after the 0x80. -/
theorem test_padt : after .padt (ops 0 0 0x200 0 55) (fun t => (t.readBytes 0x200 9, t.mem.length, t.result))
    = some ([0x80, 0, 0, 0, 0, 0, 0, 0x01, 0xB8], 9, 9) := by decide +kernel

/-- V-ERR-6: AUX = 2^61. -/
theorem test_padt_overflow : after .padt (ops 0 0 0 0 0x2000000000000000) (fun t => t.code) = some .lengthOverflow := by
  decide

/-- R287, its example, and V-SCH-1. -/
theorem test_expd : after .expd blockOps (fun t => (t.w[16], t.w[67], t.w1[0], t.w1[63]))
    = some (0x9092E200, 0xB99C0545, 0x61626380, 0x49E260D5) := by decide +kernel

/-- R315, its example. -/
theorem test_blkb : after .blkb blockOps (fun t => (t.wk, t.rnd, t.cfact, t.w[16])) = some (iv, 0, true, 0x9092E200) := by
  decide +kernel

/-- V-CMP-2: the state before round 16 of the "abc" block, and the row j = 16 after it; W and W1 as in V-SCH-1. -/
theorem test_rstep : after .rstep
    { base with
      cfact := true, rnd := 16
      wk := ⟨0x34D1691E, 0x7C529778, 0x92B57849, 0x979AB113, 0x61F99646, 0x3EE95933, 0x2AA0D251, 0xDB131B86⟩
      w := Vector.replicate 68 0x9092E200
      w1 := Vector.replicate 64 0x9092E200 } (fun t => (t.wk, t.rnd))
    = some (⟨0x796AFAB1, 0x34D1691E, 0xA52EF0F8, 0x92B57849, 0x067550F5, 0x61F99646, 0xC999F74A, 0x2AA0D251⟩, 17) := by
  decide +kernel

/-- V-CMP-7: RSTEP after reset. -/
theorem test_rstep_closed : after .rstep base (fun t => t.code) = some .roundSeq := by decide

/-- V-CMP-3: the feed-forward of the round-63 row. -/
theorem test_blke : after .blke
    { base with
      cfact := true, rnd := 64
      wk := ⟨0x1547E69B, 0x2BFA5F60, 0xC6D696BC, 0x069AE2E2, 0xE808F43B, 0x4AC3CF08, 0xCAF04E66, 0x3FB0A6AE⟩ }
    (fun t => (t.v, t.cfact, t.rnd)) = some (abcState, false, 64) := by decide +kernel

/-- V-CMP-7: BLKE after 63 rounds. -/
theorem test_blke_early : after .blke { base with cfact := true, rnd := 63 } (fun t => t.code) = some .roundSeq := by
  decide

/-- V-CMP-4. -/
theorem test_cmpr : after .cmpr blockOps (fun t => (t.v, t.result, t.cfact, t.rnd)) = some (abcState, 1, false, 0) := by
  decide +kernel

/-- V-ERR-9, V-ERR-11: LEN = 0 before the range check, LEN = 65. -/
theorem test_cmpr_errors : after .cmpr (ops 0xFFFFFFFF 0 0 0 0) (fun t => t.code) = some .emptyInput ∧
    after .cmpr (ops 0 65 0 0 0) (fun t => t.code) = some .blockAlign := by decide

/-- V-FAC-2. -/
theorem test_hash : after .hash abcOps (fun t => (t.readBytes 0x200 32, t.result, t.v)) = some (abcDigest, 64, iv) := by
  decide +kernel

/-- V-ERR-14: a + n is not taken modulo 2^32. -/
theorem test_hash_no_wrap : after .hash (ops 0xFFFFFFF0 0x20 0 0 0) (fun t => t.code) = some .addrRange := by decide

/-- V-FAC-12: 64 characters at DST and no byte after them. -/
theorem test_hashx : after .hashx abcOps
    (fun t => (t.readBytes 0x200 8, t.readBytes 0x23D 3, t.mem.read 0x240))
    = some ([0x36, 0x36, 0x43, 0x37, 0x46, 0x30, 0x46, 0x34], [0x38, 0x45, 0x30], none) := by decide +kernel

/-- V-FAC-14. -/
theorem test_staf : after .staf abcOps (fun t => (t.v, t.result)) = some (abcState, 64) := by decide +kernel

/-- R410, its corner cases: LEAF stays, the round sequence stays open. -/
theorem test_mkclr : after .mkclr { treeAB base with cfact := true }
    (fun t => (t.leafCnt, t.built, t.depth, t.root, t.leaf.length, t.cfact)) = some (0, false, 0, zero8, 2, true) := by
  decide

/-- R411, its example, and V-FAC-3. -/
theorem test_mkleaf : after .mkleaf (State.store (ops 0x100 1 0 0 0) 0x100 [0x61])
    (fun t => (t.leaf, t.leafCnt, t.result)) = some ([(0, leafA)], 1, 1) := by decide +kernel

/-- V-ERR-21: LEAFCNT = MAX_LEAVES. -/
theorem test_mkleaf_full : after .mkleaf { base with leafCnt := 5 } (fun t => t.code) = some .capacity := by decide

/-- V-MRK-1, n = 2. -/
theorem test_mkbld : after .mkbld { treeAB (ops 0 0 0x900 0 0) with built := false, depth := 0, root := zero8 }
    (fun t => (t.root, t.depth, t.built, t.result, t.readBytes 0x900 4))
    = some (rootAB, 1, true, 1, [0xD6, 0xF3, 0x51, 0xBF]) := by decide +kernel

/-- V-MRK-3, n = 2, AUX = 1: the header, then l_a. -/
theorem test_mkprv : after .mkprv (treeAB (ops 0 0 0x800 0 1)) (fun t => (t.readBytes 0x800 40, t.result))
    = some ([0, 0, 0, 1, 0, 0, 0, 1] ++ serialize leafA, 40) := by decide +kernel

/-- V-ERR-18: AUX = 2^32 is no leaf. -/
theorem test_mkprv_not_found : after .mkprv (treeAB (ops 0 0 0x800 0 0x100000000)) (fun t => t.code)
    = some .notFound := by decide

/-- R414: the same bytes as MKPRV for the leaf whose hash is at SRC. -/
theorem test_mkprh : after .mkprh (State.store (treeAB (ops 0x700 0 0x800 0 0)) 0x700 (serialize leafA))
    (fun t => (t.readBytes 0x800 40, t.result)) = some (zeros 7 ++ [1] ++ serialize leafB, 40) := by decide +kernel

/-- V-ERR-20: leaves "a", "a". -/
theorem test_mkprh_duplicate : after .mkprh
    (State.store { treeAB (ops 0x700 0 0x800 0 0) with leaf := [(0, leafA), (1, leafA)] } 0x700 (serialize leafA))
    (fun t => t.code) = some .duplicateLeaf := by decide +kernel

/-- l_b at 0x700, its proof of V-MRK-3 (AUX = 1) at 0x800 with the given index byte, the root at 0x900. -/
def proofState (index : Byte) : State :=
  State.store (State.store (State.store (ops 0x700 0 0x900 0x800 0) 0x700 (serialize leafB)) 0x800
    ([0, 0, 0, index, 0, 0, 0, 1] ++ serialize leafA)) 0x900 (serialize rootAB)

/-- R420: the proof of leaf 1 of the 2-leaf tree verifies. -/
theorem test_mkvfy : after .mkvfy (proofState 1) (fun t => (t.result, t.code)) = some (1, .ok) := by decide +kernel

/-- R420: an index that needs more than K bits gives RESULT = 0. -/
theorem test_mkvfy_index : after .mkvfy { proofState 2 with result := 7 } (fun t => (t.result, t.code))
    = some (0, .ok) := by decide +kernel

/-- R452, its example: D = SM3("abc"), AUX = 3, S = "XYZ". -/
theorem test_lefg : after .lefg
    (State.store (State.store (ops 0x580 3 0x600 0x500 3) 0x500 abcDigest) 0x580 [0x58, 0x59, 0x5A])
    (fun t => (unserialize (t.readBytes 0x600 32), t.result, t.v))
    = some (⟨0xC2CD159B, 0x7BABEA34, 0x92686A75, 0xDE0A781D, 0x93F92DFC, 0xF9B13E30, 0x6AB3AC20, 0x8B8B2A0C⟩, 67, iv) := by
  decide +kernel

/-- V-LEF-8: AUX = 2^61 - 128 with LEN = 64. -/
theorem test_lefg_overflow : after .lefg (ops 0 64 0 0 0x1FFFFFFFFFFFFF80) (fun t => t.code) = some .lengthOverflow := by
  decide

/-! ### Host steps -/

/-- R61, R71: RESULT_LO holds the low half and RESULT_HI the high one. -/
theorem test_result_halves : ({ base with result := 0x1FFFFFFF00000003 }.readReg (Reg.ofOffset 0x028),
    { base with result := 0x1FFFFFFF00000003 }.readReg (Reg.ofOffset 0x02C)) = (3, 0x1FFFFFFF) := by decide

/-- V-ERR-31: 16-bit and misaligned accesses are refused. -/
theorem test_mmio_refused : mmioRefusal 16 0 = some .mmioBusError ∧ mmioRefusal 32 2 = some .mmioBusError ∧
    mmioRefusal 32 0x1000 = some .mmioOutsideWindow ∧ mmioRefusal 32 0xFFC = none := by decide

/-- V-ERR-31: CONFIG keeps two bits. -/
theorem test_config : afterHost (.mmioWrite 32 0x00C 0xFFFFFFFF) base (fun t => t.readReg .config) = some 3 := by decide

/-- V-ERR-29: STATUS after V-ERR-1, and the W1C write. -/
theorem test_status : afterHost (.mmioWrite 32 0x004 0) base (fun t => t.readReg .status) = some 0x101 ∧
    afterHost (.mmioWrite 32 0x008 0x100) { base with err := true, code := .illegalCmd } (fun t => t.readReg .status)
      = some 0x001 := by decide

/-- R158: `setaux` writes both halves. -/
theorem test_setaux : asmSetaux 0x0000000100000002 = [.mmioWrite 32 0x020 2, .mmioWrite 32 0x024 1] := by decide

/-- R157, R152: `PAD.L` is the word 0x00000110. -/
theorem test_asm_padL : asmCmd (.pad true) = [.mmioWrite 32 0x004 0x00000110] := by decide

/-- A placed command is what the next step runs: INIT right after reset. -/
theorem test_withFetchWord : decodeTableWord 32 0x00000001 = some .init ∧
    step (State.reset.withFetchWord 32 0x00000001) = exec .init { State.reset with cmd := 1 } := ⟨by decide, rfl⟩

/-- V-SCH-4: W[67] and W1[63] of the "abc" block under every strategy. -/
theorem test_strategies : ∀ x : BitVec 2, ((scheduleOf x abcBlock).1[67]?, (scheduleOf x abcBlock).2[63]?)
    = (some 0xB99C0545, some 0x49E260D5) := by decide +kernel

/-! ### Witnesses: states that meet the hypotheses of each obligation, clause by clause -/

/-- The host's next step is a write of the word `c` to CMD. -/
def cmdWrite (s : State) (c : Word) : State := { s with hostQueue := [.mmioWrite 32 0x004 c] }

theorem witness_DecodeAndEncodeAgree : decode (encode .lefg) = .ok .lefg ∧ encode (.pad true) = 0x00000110 := by decide

theorem witness_InvalidWordsAreIllegal :
    (∃ c, validWord c = true) ∧
    ∃ (s : State) (c : Word) (rest : List HostOp), s.hostQueue = .mmioWrite 32 0x004 c :: rest ∧ validWord c = false :=
  ⟨⟨0x00000110, by decide⟩, cmdWrite base 0x00000210, 0x00000210, [], rfl, by decide⟩

theorem witness_StepRunsDecodedCommand :
    ∃ (s : State) (c : Word) (i : Instr) (rest : List HostOp),
      s.hostQueue = .mmioWrite 32 0x004 c :: rest ∧ decode c = .ok i :=
  ⟨cmdWrite base 0x00000110, 0x00000110, .pad true, [], rfl, by decide⟩

theorem witness_ErrorsArePrecise :
    (∃ (i : Instr) (s t : State), exec i s = .next t ∧ t.code ≠ .ok) ∧
    ∃ (s t : State) (c : Word) (rest : List HostOp), s.hostQueue = .mmioWrite 32 0x004 c :: rest ∧ step s = .next t ∧
      t.code ≠ .ok :=
  ⟨⟨.blke, base, _, rfl, by decide⟩, cmdWrite base 0x00000015, _, 0x00000015, [], rfl, rfl, by decide⟩

/-- Also meets the hypotheses of StrategyHasNoEffect and CommandsWriteOnlyTheirRegion (its address a = DST + 32). -/
theorem witness_CommandsKeepOperands :
    ∃ (i : Instr) (s t : State), exec i s = .next t ∧ t.code = .ok ∧ s.dst.toNat + outputSize i s = 0x1000 :=
  ⟨.stst, ops 0 0 0xFE0 0 0, _, rfl, by decide, by decide⟩

theorem witness_CommandsWriteOnlyTheirRegion :
    ∃ (i : Instr) (s t : State) (a : Nat), exec i s = .next t ∧ outputSize i s = 0 ∧ s.dst.toNat + outputSize i s ≤ a :=
  ⟨.init, base, _, 0, rfl, by decide, by decide⟩

theorem witness_OnlyFiveCommandsWriteV : ∃ (i : Instr) (s t : State), exec i s = .next t ∧ t.v ≠ s.v :=
  ⟨.init, { base with v := zero8 }, _, rfl, by decide⟩

theorem witness_OnlyMerkleCommandsWriteTheTree :
    (∃ (i : Instr) (s t : State), exec i s = .next t ∧ t.leafCnt ≠ s.leafCnt ∧ t.built ≠ s.built) ∧
    (∃ (i : Instr) (s t : State), exec i s = .next t ∧ t.leaf ≠ s.leaf) ∧
    (∃ (i : Instr) (s t : State), exec i s = .next t ∧ t.depth ≠ s.depth ∧ t.root ≠ s.root) :=
  ⟨⟨.mkclr, treeAB base, _, rfl, by decide, by decide⟩,
   ⟨.mkleaf, State.store (ops 0x100 1 0 0 0) 0x100 [0x61], _, rfl, by decide +kernel⟩,
   ⟨.mkclr, treeAB base, _, rfl, by decide, by decide⟩⟩

theorem witness_AbandoningCommands :
    (∃ i ∈ abandoningCommands, ∃ s t : State, exec i s = .next t ∧ t.code = .ok ∧ s.cfact = true) ∧
    (∃ i ∈ datapathCommands, ∃ s t : State, exec i s = .next t ∧ t.code = .ok) ∧
    (∃ i ∈ quietCommands, ∃ s t : State, exec i s = .next t ∧ t.code = .ok) ∧
    (∃ s t : State, exec .blke s = .next t ∧ t.code = .ok) ∧ (∃ s t : State, exec .rstep s = .next t ∧ t.code = .ok) ∧
    (∃ (i : Instr) (s t : State), exec i s = .next t ∧ t.code ≠ .ok) :=
  ⟨⟨.init, by decide, { base with cfact := true }, _, rfl, by decide, rfl⟩,
   ⟨.cmpr, by decide, blockOps, _, rfl, by decide⟩,
   ⟨.stst, by decide, base, _, rfl, by decide⟩,
   ⟨{ base with cfact := true, rnd := 64 }, _, rfl, by decide⟩,
   ⟨{ base with cfact := true, rnd := 63 }, _, rfl, by decide⟩,
   ⟨.blke, base, _, rfl, by decide⟩⟩

/-- The state that BLKB leaves on a block of zeros, with one more command to come. -/
def openSequence (c : Word) : State :=
  { cmdWrite base c with cfact := true, w := expand (zeros 64), w1 := mixing (expand (zeros 64)), wk := iv }

theorem witness_StepKeepsMemory : ∃ s t : State, s.MemInv ∧ step s = .next t ∧ t.mem ≠ s.mem :=
  ⟨cmdWrite (State.store (ops 0 0 0xFE0 0 0) 0xFFF [1]) 0x00000003, _, ⟨by decide, by decide⟩, rfl, by decide +kernel⟩

theorem witness_StepKeepsLeafStore :
    ∃ s t : State, s.params.ok = true ∧ s.LeafInv ∧ step s = .next t ∧ t.leafCnt.toNat = t.params.maxLeaves :=
  ⟨cmdWrite { State.store (ops 0x100 1 0 0 0) 0x100 [0x61] with
      params := ⟨0x1000, 3⟩, leaf := [(0, leafA), (1, leafB)], leafCnt := 2 } 0x00000031, _,
   by decide, ⟨by decide, by decide, by decide, by decide⟩, rfl, by decide +kernel⟩

theorem witness_StepKeepsRoundSequence :
    ∃ s t : State, s.RoundInv ∧ s.cfact = true ∧ step s = .next t ∧ t.rnd = 1 :=
  ⟨openSequence 0x00000014, _, ⟨by decide, fun _ => ⟨zeros 64, rfl, rfl, rfl, rfl⟩⟩, rfl, rfl, by decide⟩

theorem witness_StepKeepsBuiltTree : ∃ s t : State, s.TreeInv ∧ s.built = true ∧ step s = .next t ∧ t.built = true :=
  ⟨cmdWrite { ops 0 0 0x900 0 0 with leaf := [(0, leafA)], leafCnt := 1, built := true, depth := 0, root := leafA }
      0x00000033, _, fun _ => ⟨by decide, by decide, by decide⟩, rfl, rfl, by decide⟩

theorem witness_ResetValues : ∃ off, off < 4096 ∧ off % 4 = 0 ∧ (off < 0x040 ∨ 0x060 ≤ off) := ⟨0xFFC, by decide⟩

/-- The last register and the first reserved offset of each part of the map (also for ResetValues and RegisterMap). -/
theorem witness_RegisterMap :
    Reg.ofOffset 0x038 = .depth ∧ Reg.ofOffset 0x03C = .reserved ∧ Reg.ofOffset 0x040 = .v 0 ∧
    Reg.ofOffset 0x09C = .root 7 ∧ Reg.ofOffset 0x0A0 = .reserved ∧ Reg.ofOffset 0x20C = .w 67 ∧
    Reg.ofOffset 0x210 = .reserved ∧ Reg.ofOffset 0x300 = .w1 0 ∧ Reg.ofOffset 0x3FC = .w1 63 ∧
    Reg.ofOffset 0x400 = .reserved := by decide

theorem witness_MmioAccessRules :
    (∃ width off : Nat, off < 4096 ∧ (width ≠ 32 ∨ off % 4 ≠ 0)) ∧
    (∃ off : Nat, off < 4096 ∧ off % 4 = 0 ∧
      (off = 0x03C ∨ (0x0A0 ≤ off ∧ off ≤ 0x0FC) ∨ (0x210 ≤ off ∧ off ≤ 0x2FC) ∨ 0x400 ≤ off)) ∧
    (∃ off : Nat, off < 4096 ∧ off % 4 = 0 ∧ (off = 0x000 ∨ (0x028 ≤ off ∧ off < 4096))) :=
  ⟨⟨32, 4095, by decide⟩, ⟨0x2FC, by decide⟩, ⟨0x028, by decide⟩⟩

theorem witness_StatusRegister :
    (∃ (i : Instr) (s t : State), exec i s = .next t ∧ t.code = .ok ∧ s.err = true) ∧
    (∃ (i : Instr) (s t : State), exec i s = .next t ∧ t.code ≠ .ok ∧ s.err = false) :=
  ⟨⟨.mkclr, { base with err := true }, _, rfl, by decide, rfl⟩, ⟨.mkbld, base, _, rfl, by decide, rfl⟩⟩

theorem witness_HostMemoryAccess :
    (∃ (s : State) (a : Nat) (b : Byte), a < s.params.memBytes ∧ s.mem.read a = some b) ∧
    (∃ (s : State) (a : Nat), a < s.params.memBytes ∧ s.mem.read a = none) ∧
    (∃ (s : State) (a : Nat), s.params.memBytes ≤ a) :=
  ⟨⟨State.store base 0xFFF [5], 0xFFF, 5, by decide⟩, ⟨base, 0xFFF, by decide⟩, ⟨base, 0x1000, by decide⟩⟩

theorem witness_LdstRule :
    (∃ s : State, InMem s s.src.toNat 32) ∧ (∃ s : State, ¬ InMem s s.src.toNat 32) :=
  ⟨⟨ops 0xFE0 0 0 0 0, by decide⟩, ⟨ops 0xFE1 0 0 0 0, by decide⟩⟩

theorem witness_StstRule :
    (∃ s : State, InMem s s.dst.toNat 32) ∧ (∃ s : State, ¬ InMem s s.dst.toNat 32) :=
  ⟨⟨ops 0 0 0xFE0 0 0, by decide⟩, ⟨ops 0 0 0xFE1 0 0, by decide⟩⟩

theorem witness_HexstRule :
    (∃ s : State, InMem s s.dst.toNat 64) ∧ (∃ s : State, ¬ InMem s s.dst.toNat 64) :=
  ⟨⟨ops 0 0 0xFC0 0 0, by decide⟩, ⟨ops 0 0 0xFC1 0 0, by decide⟩⟩

theorem witness_PadRule :
    (∃ (s : State) (lf : Nat), lf = s.aux.toNat ∧ 2 ^ 61 ≤ lf) ∧
    (∃ (s : State) (lf : Nat), lf = s.len.toNat ∧ lf < 2 ^ 61 ∧ ¬ InMem s s.src.toNat s.len.toNat) ∧
    (∃ (s : State) (lf : Nat), lf = s.len.toNat ∧ lf < 2 ^ 61 ∧ InMem s s.src.toNat s.len.toNat ∧
      ¬ InMem s s.dst.toNat (padLen s.len.toNat)) ∧
    (∃ (s : State) (lf : Nat), lf = s.aux.toNat ∧ lf < 2 ^ 61 ∧ InMem s s.src.toNat s.len.toNat ∧
      InMem s s.dst.toNat (padLen s.len.toNat)) :=
  ⟨⟨ops 0 0 0 0 0x2000000000000000, _, rfl, by decide⟩, ⟨ops 0xFFF 2 0 0 0, _, rfl, by decide⟩,
   ⟨ops 0xFFFFFFFF 0 0xFC1 0 0, _, rfl, by decide⟩, ⟨ops 0 55 0xFC0 0 0x1FFFFFFFFFFFFFFF, _, rfl, by decide⟩⟩

theorem witness_PadtRule :
    (∃ s : State, 2 ^ 61 ≤ s.aux.toNat) ∧
    (∃ s : State, s.aux.toNat < 2 ^ 61 ∧ ¬ InMem s s.dst.toNat (padLen s.aux.toNat - s.aux.toNat)) ∧
    (∃ s : State, s.aux.toNat < 2 ^ 61 ∧ InMem s s.dst.toNat (padLen s.aux.toNat - s.aux.toNat)) :=
  ⟨⟨ops 0 0 0 0 0x2000000000000000, by decide⟩, ⟨ops 0 0 0xFF8 0 55, by decide⟩,
   ⟨ops 0 0 0xFBF 0 0x1FFFFFFFFFFFFFFF, by decide⟩⟩

/-- For EXPD and for BLKB, whose hypotheses are the same. -/
theorem witness_ExpdRule_BlkbRule :
    (∃ s : State, InMem s s.src.toNat 64) ∧ (∃ s : State, ¬ InMem s s.src.toNat 64) :=
  ⟨⟨ops 0xFC0 0 0 0 0, by decide⟩, ⟨ops 0xFC1 0 0 0 0, by decide⟩⟩

theorem witness_RstepRule :
    (∃ s : State, s.cfact = true ∧ s.rnd.toNat < 64) ∧ (∃ s : State, s.cfact = false) ∧
    (∃ s : State, s.cfact = true ∧ 64 ≤ s.rnd.toNat) :=
  ⟨⟨{ base with cfact := true, rnd := 63 }, by decide⟩, ⟨base, by decide⟩, ⟨{ base with cfact := true, rnd := 64 }, by decide⟩⟩

theorem witness_BlkeRule :
    (∃ s : State, s.cfact = true ∧ s.rnd.toNat = 64) ∧ (∃ s : State, s.cfact = false ∧ s.rnd.toNat = 64) ∧
    (∃ s : State, s.cfact = true ∧ s.rnd.toNat ≠ 64) :=
  ⟨⟨{ base with cfact := true, rnd := 64 }, by decide⟩, ⟨{ base with rnd := 64 }, by decide⟩,
   ⟨{ base with cfact := true, rnd := 63 }, by decide⟩⟩

theorem witness_CmprRule :
    (∃ s : State, s.len.toNat = 0) ∧ (∃ s : State, s.len.toNat ≠ 0 ∧ s.len.toNat % 64 ≠ 0) ∧
    (∃ s : State, s.len.toNat ≠ 0 ∧ s.len.toNat % 64 = 0 ∧ ¬ InMem s s.src.toNat s.len.toNat) ∧
    (∃ s : State, s.len.toNat ≠ 0 ∧ s.len.toNat % 64 = 0 ∧ InMem s s.src.toNat s.len.toNat) :=
  ⟨⟨base, by decide⟩, ⟨ops 0 63 0 0 0, by decide⟩, ⟨ops 0xFC1 64 0 0 0, by decide⟩, ⟨ops 0xF80 128 0 0 0, by decide⟩⟩

theorem witness_HashRule :
    (∃ s : State, InMem s s.src.toNat s.len.toNat ∧ InMem s s.dst.toNat 32 ∧ s.len.toNat = 0) ∧
    (∃ s : State, ¬ InMem s s.src.toNat s.len.toNat) ∧
    (∃ s : State, InMem s s.src.toNat s.len.toNat ∧ ¬ InMem s s.dst.toNat 32) :=
  ⟨⟨ops 0xFFFFFFFF 0 0xFE0 0 0, by decide⟩, ⟨ops 0xFFF 2 0 0 0, by decide⟩, ⟨ops 0xFFF 1 0xFE1 0 0, by decide⟩⟩

theorem witness_HashxRule :
    (∃ s : State, InMem s s.src.toNat s.len.toNat ∧ InMem s s.dst.toNat 64) ∧
    (∃ s : State, ¬ InMem s s.src.toNat s.len.toNat) ∧
    (∃ s : State, InMem s s.src.toNat s.len.toNat ∧ ¬ InMem s s.dst.toNat 64) :=
  ⟨⟨ops 0xFFF 1 0xFC0 0 0, by decide⟩, ⟨ops 0xFFF 2 0 0 0, by decide⟩, ⟨ops 0xFFF 1 0xFC1 0 0, by decide⟩⟩

theorem witness_StafRule :
    (∃ s : State, InMem s s.src.toNat s.len.toNat ∧ InMem s s.dst.toNat 32) ∧
    (∃ s : State, ¬ InMem s s.src.toNat s.len.toNat) :=
  ⟨⟨ops 0xFC8 56 0xFE0 0 0, by decide⟩, ⟨ops 0x1000 1 0 0 0, by decide⟩⟩

theorem witness_MkleafRule :
    (∃ s : State, s.leafCnt.toNat = s.params.maxLeaves) ∧
    (∃ s : State, s.leafCnt.toNat < s.params.maxLeaves ∧ ¬ InMem s s.src.toNat s.len.toNat) ∧
    (∃ s : State, s.params.ok = true ∧ s.leafCnt.toNat < s.params.maxLeaves ∧ InMem s s.src.toNat s.len.toNat) :=
  ⟨⟨{ base with leafCnt := 5 }, by decide⟩, ⟨{ ops 0x1000 1 0 0 0 with leafCnt := 4 }, by decide⟩,
   ⟨{ ops 0xFFF 1 0 0 0 with leafCnt := 4 }, by decide⟩⟩

theorem witness_MkbldRule :
    (∃ s : State, s.leafCnt.toNat = 0) ∧ (∃ s : State, s.leafCnt.toNat ≠ 0 ∧ ¬ InMem s s.dst.toNat 32) ∧
    (∃ s : State, s.leafCnt.toNat ≠ 0 ∧ InMem s s.dst.toNat 32) :=
  ⟨⟨base, by decide⟩, ⟨treeAB (ops 0 0 0xFE1 0 0), by decide⟩, ⟨treeAB (ops 0 0 0xFE0 0 0), by decide⟩⟩

theorem witness_MkprvRule :
    (∃ s : State, s.built = false) ∧
    (∃ s : State, s.built = true ∧ ¬ InMem s s.dst.toNat (8 + 32 * s.depth.toNat)) ∧
    (∃ s : State, s.built = true ∧ InMem s s.dst.toNat (8 + 32 * s.depth.toNat) ∧ s.leafCnt.toNat ≤ s.aux.toNat) ∧
    (∃ s : State, s.built = true ∧ InMem s s.dst.toNat (8 + 32 * s.depth.toNat) ∧ s.aux.toNat < s.leafCnt.toNat) :=
  ⟨⟨base, by decide⟩, ⟨treeAB (ops 0 0 0xFD9 0 0), by decide⟩, ⟨treeAB (ops 0 0 0xFD8 0 2), by decide⟩,
   ⟨treeAB (ops 0 0 0xFD8 0 1), by decide⟩⟩

/-- The 2-leaf tree, or one over l_a twice, with the given hash at SRC. -/
def findState (second target : Words8) : State :=
  State.store { treeAB (ops 0xFE0 0 0x800 0 0) with leaf := [(0, leafA), (1, second)] } 0xFE0 (serialize target)

theorem witness_MkprhRule :
    (∃ s : State, s.built = false) ∧ (∃ s : State, s.built = true ∧ ¬ InMem s s.src.toNat 32) ∧
    (∃ s : State, s.built = true ∧ InMem s s.src.toNat 32 ∧ ¬ InMem s s.dst.toNat (8 + 32 * s.depth.toNat)) ∧
    (∃ (s : State) (h : Words8), s.built = true ∧ InMem s s.src.toNat 32 ∧
      InMem s s.dst.toNat (8 + 32 * s.depth.toNat) ∧ h = unserialize (s.readBytes s.src.toNat 32) ∧
      ∀ i < s.leafCnt.toNat, s.leafAt i ≠ h) ∧
    (∃ (s : State) (h : Words8) (i j : Nat), s.built = true ∧ InMem s s.src.toNat 32 ∧
      InMem s s.dst.toNat (8 + 32 * s.depth.toNat) ∧ h = unserialize (s.readBytes s.src.toNat 32) ∧
      i < j ∧ j < s.leafCnt.toNat ∧ s.leafAt i = h ∧ s.leafAt j = h) ∧
    (∃ (s : State) (h : Words8) (i : Nat), s.built = true ∧ InMem s s.src.toNat 32 ∧
      InMem s s.dst.toNat (8 + 32 * s.depth.toNat) ∧ h = unserialize (s.readBytes s.src.toNat 32) ∧
      i < s.leafCnt.toNat ∧ s.leafAt i = h ∧ ∀ j < s.leafCnt.toNat, s.leafAt j = h → j = i) :=
  ⟨⟨base, by decide⟩, ⟨treeAB (ops 0xFE1 0 0 0 0), by decide⟩, ⟨treeAB (ops 0xFE0 0 0xFD9 0 0), by decide⟩,
   ⟨findState leafB rootAB, rootAB, by decide +kernel⟩, ⟨findState leafA leafA, leafA, 0, 1, by decide +kernel⟩,
   ⟨findState leafB leafB, leafB, 1, by decide +kernel⟩⟩

/-- A proof header at PTR2 with index 0 and the given K byte. -/
def headerState (ptr2 : Word) (k : Byte) : State :=
  State.store (ops 0 0 0xFE0 ptr2 0) ptr2.toNat [0, 0, 0, 0, 0, 0, 0, k]

theorem witness_MkvfyRule :
    (∃ s : State, InMem s s.src.toNat 32 ∧ InMem s s.dst.toNat 32 ∧ ¬ InMem s s.ptr2.toNat 8) ∧
    (∃ s : State, InMem s s.src.toNat 32 ∧ InMem s s.ptr2.toNat 8 ∧ InMem s s.dst.toNat 32 ∧ 32 < s.headerDepth) ∧
    (∃ s : State, InMem s s.src.toNat 32 ∧ InMem s s.ptr2.toNat 8 ∧ InMem s s.dst.toNat 32 ∧ s.headerDepth ≤ 32 ∧
      ¬ InMem s (s.ptr2.toNat + 8) (32 * s.headerDepth)) ∧
    (∃ s : State, InMem s s.src.toNat 32 ∧ InMem s s.ptr2.toNat 8 ∧ InMem s s.dst.toNat 32 ∧ s.headerDepth ≤ 32 ∧
      InMem s (s.ptr2.toNat + 8) (32 * s.headerDepth)) :=
  ⟨⟨ops 0 0 0 0xFFC 0, by decide⟩, ⟨headerState 0x800 33, by decide +kernel⟩, ⟨headerState 0xFF8 32, by decide +kernel⟩,
   ⟨headerState 0xBF8 32, by decide +kernel⟩⟩

theorem witness_LefgRule :
    (∃ s : State, 2 ^ 61 ≤ padLen s.aux.toNat + s.len.toNat) ∧
    (∃ s : State, padLen s.aux.toNat + s.len.toNat < 2 ^ 61 ∧ ¬ InMem s s.ptr2.toNat 32) ∧
    (∃ s : State, padLen s.aux.toNat + s.len.toNat < 2 ^ 61 ∧ InMem s s.ptr2.toNat 32 ∧
      InMem s s.src.toNat s.len.toNat ∧ InMem s s.dst.toNat 32) :=
  ⟨⟨ops 0 64 0 0 0x1FFFFFFFFFFFFF80, by decide⟩, ⟨ops 0 0 0 0xFE1 0, by decide⟩,
   ⟨ops 0xFC1 63 0xFE0 0xFE0 0x1FFFFFFFFFFFFF80, by decide⟩⟩

theorem witness_BooleanFunctions : ∃ j k : Nat, k < 32 ∧ 16 ≤ j ∧ (ff 1 1 0 j).getLsbD k ≠ (ff 1 1 0 15).getLsbD k :=
  ⟨16, 0, by decide⟩

theorem witness_PaddingProperties : padLen 55 - 55 = 9 ∧ padLen 56 - 56 = 72 ∧ 55 % 64 = 55 ∧ 56 % 64 = 56 := by decide

theorem witness_PackingFormulas : ∃ n : Nat, n < 2 ^ 64 ∧ be64 n = [255, 255, 255, 255, 255, 255, 255, 255] :=
  ⟨2 ^ 64 - 1, by decide⟩

theorem witness_SerializerInverse : ∃ d : List Byte, d.length = 32 ∧ unserialize d = abcState := ⟨abcDigest, by decide⟩

theorem witness_HexSerializer : ∃ (d : List Byte) (i : Nat) (b : Byte), d[i]? = some b ∧ b.toNat / 16 = 9 ∧ b.toNat % 16 = 10 :=
  ⟨[0, 0x9A], 1, 0x9A, by decide⟩

theorem witness_ScheduleRecurrence : ∃ j : Nat, 16 ≤ j ∧ j < 68 ∧ (expand abcBlock)[j]! = 0xB99C0545 :=
  ⟨67, by decide +kernel⟩

theorem witness_RoundSequenceEquivalence :
    (∃ (s : State) (cs : List Instr), InMem s s.src.toNat 64 ∧ (∀ c ∈ cs, c = .rstep ∨ c ∈ quietCommands) ∧
      cs.count .rstep = 64 ∧ .mkclr ∈ cs) ∧
    (∃ s : State, InMem s s.src.toNat 64 ∧ s.len.toNat = 64) :=
  ⟨⟨ops 0xFC0 0 0 0 0, List.replicate 20 .rstep ++ [.stst, .padt, .mkclr] ++ List.replicate 44 .rstep, by decide⟩,
   ⟨ops 0xFC0 64 0 0 0, by decide⟩⟩

theorem witness_FoldOfConcatenation : ∃ x : List Byte, x.length % 64 = 0 ∧ x ≠ [] := ⟨zeros 64, by decide⟩

theorem witness_LengthExtensionCorrect :
    ∃ m suffix : List Byte, 8 * (padLen m.length + suffix.length) < 2 ^ 64 ∧ m ≠ [] ∧ suffix ≠ [] :=
  ⟨abc, [0x58, 0x59, 0x5A], by decide⟩

theorem witness_TreeDepthIsCeilLog : ∃ leaves : List Words8, leaves ≠ [] ∧ leaves.length < 2 ^ 32 ∧ treeDepth leaves = 2 :=
  ⟨[leafA, leafB, leafA], by decide⟩

theorem witness_MerkleProofsVerify : ∃ (leaves : List Words8) (i : Nat) (h : Words8), leaves[i]? = some h ∧ i = 2 :=
  ⟨[leafA, leafB, leafA], 2, leafA, by decide⟩

theorem witness_DuplicateLeafAmbiguity : ∃ leaves : List Words8, leaves ≠ [] ∧ leaves.length % 2 = 0 :=
  ⟨[leafA, leafB], by decide⟩

end Sys2Proof.Machine.Tests
end

section
/-! ### Proofs of 10_state.md: how a command ends, and what it can do to each group of registers -/

namespace Sys2Proof.Machine

/-- How a command can end (60_exceptions.md R500, R503, R505): success with ERR as it was, or one of the command's own
codes with nothing else changed but the count of draws. -/
def Completes (i : Instr) (s t : State) : Prop :=
  (t.code = .ok ∧ t.err = s.err) ∨ ∃ n, ∃ e ∈ raisable i, t = (s.draw n).raise e

/-- What holds after every failing check and after the effect holds after the command. -/
theorem State.perform_induction {P : State → Prop} {s : State} {cs : List (Bool × Code)} {f : State → State}
    (hraise : ∀ e, (true, e) ∈ cs → P (s.raise e)) (hdone : (∀ c ∈ cs, c.1 = false) → P (f s).succeed) :
    P (s.perform cs f) := by
  rcases s.perform_cases cs f with ⟨e, -, he, h⟩ | ⟨hpass, h⟩
  · exact h ▸ hraise e he
  · exact h ▸ hdone hpass

/-- A command keeps what neither an error nor its effect changes. -/
theorem State.perform_keeps {α : Type} {g : State → α} {s : State} {cs : List (Bool × Code)} {f : State → State}
    (hraise : ∀ e, g (s.raise e) = g s) (hdone : g (f s).succeed = g s) : g (s.perform cs f) = g s :=
  State.perform_induction (P := fun t => g t = g s) (fun e _ => hraise e) fun _ => hdone

/-- The codes that the checks `cs` can fail with are codes that `i` can end with. -/
def CodesIn (cs : List (Bool × Code)) (i : Instr) : Prop := ∀ c ∈ cs, c.1 = true → c.2 ∈ raisable i

theorem State.perform_completes {i : Instr} {s : State} {cs : List (Bool × Code)} {f : State → State}
    (hcodes : CodesIn cs i) (herr : (f s).err = s.err) : Completes i s (s.perform cs f) :=
  State.perform_induction (fun e he => .inr ⟨0, e, hcodes _ he rfl, rfl⟩) fun _ => .inl ⟨rfl, herr⟩

/-- Every command ends in a next state (60_exceptions.md R500). -/
theorem exec_next (i : Instr) (s : State) : ∃ t, exec i s = .next t := by
  cases i <;> exact ⟨_, rfl⟩

/-- MKPRH writes the proof of one leaf, or raises one of its codes, before or after the draws of its read. -/
theorem exec_mkprh_cases {s t : State} (h : exec .mkprh s = .next t) :
    (∃ n, ∃ e ∈ raisable .mkprh, t = (s.draw n).raise e) ∨ ∃ i, t = ((s.draw 32).writeProof i).succeed := by
  obtain rfl := Host.Outcome.next.inj h
  have hcodes : CodesIn (mkprhChecks s) .mkprh := by simp [CodesIn, mkprhChecks, State.checkRegion, raisable]
  rcases s.guarded_cases (mkprhChecks s) _ with ⟨e, -, he, h⟩ | ⟨-, h⟩ <;> rw [h]
  · exact .inl ⟨0, e, hcodes _ he rfl, rfl⟩
  · split
    · exact .inl ⟨32, .notFound, by decide, rfl⟩
    · next i _ => exact .inr ⟨i, rfl⟩
    · exact .inl ⟨32, .duplicateLeaf, by decide, rfl⟩

/-- MKVFY gives its verdict in RESULT, or raises one of its codes, before or after the draws of its first reads. -/
theorem exec_mkvfy_cases {s t : State} (h : exec .mkvfy s = .next t) :
    (∃ n, ∃ e ∈ raisable .mkvfy, t = (s.draw n).raise e) ∨
      ∃ n r, t = ((((s.draw 72).draw n).setResult r).useDatapath).succeed := by
  obtain rfl := Host.Outcome.next.inj h
  have hcodes : CodesIn (mkvfyChecks s) .mkvfy := by simp [CodesIn, mkvfyChecks, State.checkRegion, raisable]
  have hheader : CodesIn (mkvfyHeaderChecks s s.headerDepth) .mkvfy := by
    simp [CodesIn, mkvfyHeaderChecks, State.checkRegion, raisable]
  rcases s.guarded_cases (mkvfyChecks s) _ with ⟨e, -, he, h⟩ | ⟨-, h⟩ <;> rw [h]
  · exact .inl ⟨0, e, hcodes _ he rfl, rfl⟩
  · rcases (s.draw 72).guarded_cases (mkvfyHeaderChecks s s.headerDepth) _ with ⟨e, -, he, h⟩ | ⟨-, h⟩ <;> rw [h]
    · exact .inl ⟨72, e, hheader _ he rfl, rfl⟩
    · exact .inr ⟨32 * s.headerDepth, _, rfl⟩

/-- LEN is a 32-bit count, so that PAD without L cannot overflow the length field (41_padding.md R253). -/
@[simp] theorem lengthOverflows_lenVal (s : State) : lengthOverflows s.lenVal = false := by
  have := s.len.isLt
  exact decide_eq_false (show ¬ 2 ^ 64 ≤ 8 * s.len.toNat by omega)

/-- Every code that a command's checks or its reads can raise is one of its own. -/
theorem exec_completes {i : Instr} {s t : State} (h : exec i s = .next t) : Completes i s t := by
  cases i with
  | mkprh =>
    rcases exec_mkprh_cases h with hr | ⟨i, rfl⟩
    · exact .inr hr
    · exact .inl ⟨rfl, by simp [State.writeProof]⟩
  | mkvfy =>
    rcases exec_mkvfy_cases h with hr | ⟨n, r, rfl⟩
    · exact .inr hr
    · exact .inl ⟨rfl, by simp⟩
  | pad l =>
    obtain rfl := Host.Outcome.next.inj h
    refine State.perform_completes ?_ (by simp)
    cases l <;> simp [CodesIn, padChecks, State.padField, State.checkRegion, raisable]
  | _ =>
    obtain rfl := Host.Outcome.next.inj h
    refine State.perform_completes ?_ (by simp [State.writeProof, State.hashTo])
    simp [CodesIn, ldstChecks, ststChecks, hexstChecks, padtChecks, expdChecks, blkbChecks, rstepChecks, blkeChecks,
      cmprChecks, hashChecks, hashxChecks, stafChecks, mkleafChecks, mkbldChecks, mkprvChecks, lefgChecks,
      State.checkRegion, raisable]

/-! ### What a command changes, by group of registers -/

/-- The leaf store and the tree registers (10_state.md R63, R64, R67, R70). -/
structure TreeRegs where
  leaf : LeafStore
  leafCnt : Word
  built : Bool
  depth : BitVec 6
  root : Words8

/-- V and the registers of a round sequence (10_state.md R62, R65, R66, R68-R70). -/
structure RoundRegs where
  v : Words8
  wk : Words8
  w : Vector Word 68
  w1 : Vector Word 64
  rnd : BitVec 7
  cfact : Bool

/-- What no command writes: the operand registers, CMD, CONFIG and the model's own fields but the draw count
(30_encoding.md R154). -/
structure KeptRegs where
  src : Word
  len : Word
  dst : Word
  ptr2 : Word
  aux : BitVec 64
  cmd : Word
  strat : BitVec 2
  params : Params
  hostQueue : List HostOp
  hostReads : List HostRead

/-- The leaf store and the tree registers of a state. -/
def State.treeRegs (s : State) : TreeRegs := ⟨s.leaf, s.leafCnt, s.built, s.depth, s.root⟩

/-- V and the round registers of a state. -/
def State.roundRegs (s : State) : RoundRegs := ⟨s.v, s.wk, s.w, s.w1, s.rnd, s.cfact⟩

/-- The fields of a state that no command writes. -/
def State.keptRegs (s : State) : KeptRegs :=
  ⟨s.src, s.len, s.dst, s.ptr2, s.aux, s.cmd, s.strat, s.params, s.hostQueue, s.hostReads⟩

theorem exec_keptRegs {i : Instr} {s t : State} (h : exec i s = .next t) : t.keptRegs = s.keptRegs := by
  cases i with
  | mkprh =>
    rcases exec_mkprh_cases h with ⟨n, e, -, rfl⟩ | ⟨i, rfl⟩ <;> simp [State.keptRegs, State.writeProof]
  | mkvfy =>
    rcases exec_mkvfy_cases h with ⟨n, e, -, rfl⟩ | ⟨n, r, rfl⟩ <;> simp [State.keptRegs]
  | _ =>
    obtain rfl := Host.Outcome.next.inj h
    exact State.perform_keeps (fun _ => rfl) (by simp [State.keptRegs, State.writeProof, State.hashTo])

theorem exec_params {i : Instr} {s t : State} (h : exec i s = .next t) : t.params = s.params :=
  congrArg KeptRegs.params (exec_keptRegs h)

/-- What a command can do to the leaf store and the tree. -/
inductive TreeEffect (s : State) : Instr → State → Prop
  | keep {i : Instr} {t : State} (h : t.treeRegs = s.treeRegs) : TreeEffect s i t
  | clear {t : State} (h : t.treeRegs =
      { s.treeRegs with leafCnt := 0, built := false, depth := 0, root := ⟨0, 0, 0, 0, 0, 0, 0, 0⟩ }) :
      TreeEffect s .mkclr t
  | append {t : State} (d : Words8) (hroom : s.leafCnt.toNat ≠ s.params.maxLeaves) (h : t.treeRegs =
      { s.treeRegs with leaf := storeSet s.leaf s.leafCnt.toNat d, leafCnt := s.leafCnt + 1, built := false }) :
      TreeEffect s .mkleaf t
  | build {t : State} (hne : s.leafCnt.toNat ≠ 0) (h : t.treeRegs =
      { s.treeRegs with built := true, depth := BitVec.ofNat 6 (treeDepth s.leafList), root := treeRoot s.leafList }) :
      TreeEffect s .mkbld t

theorem exec_treeEffect {i : Instr} {s t : State} (h : exec i s = .next t) : TreeEffect s i t := by
  cases i with
  | mkclr =>
    obtain rfl := Host.Outcome.next.inj h
    exact .clear rfl
  | mkleaf =>
    obtain rfl := Host.Outcome.next.inj h
    refine State.perform_induction (fun e _ => .keep rfl) fun hpass =>
      .append (hashState (s.readBytes s.srcAddr s.lenVal)) ?_ ?_
    · simpa using hpass _ List.mem_cons_self
    · simp [State.treeRegs]
  | mkbld =>
    obtain rfl := Host.Outcome.next.inj h
    refine State.perform_induction (fun e _ => .keep rfl) fun hpass => .build ?_ ?_
    · simpa using hpass _ List.mem_cons_self
    · simp [State.treeRegs]
  | mkprh =>
    rcases exec_mkprh_cases h with ⟨n, e, -, rfl⟩ | ⟨i, rfl⟩ <;>
      exact .keep (by simp [State.treeRegs, State.writeProof])
  | mkvfy =>
    rcases exec_mkvfy_cases h with ⟨n, e, -, rfl⟩ | ⟨n, r, rfl⟩ <;> exact .keep (by simp [State.treeRegs])
  | _ =>
    obtain rfl := Host.Outcome.next.inj h
    exact .keep (State.perform_keeps (fun _ => rfl) (by simp [State.treeRegs, State.writeProof, State.hashTo]))

/-- What a command can do to V and to the round sequence. -/
inductive RoundEffect (s : State) : Instr → State → Prop
  | keep {i : Instr} {t : State} (h : t.roundRegs = s.roundRegs) : RoundEffect s i t
  | close {i : Instr} {t : State} (hi : i ∈ abandoningCommands) (hcfact : t.cfact = false) (hrnd : t.rnd = 0)
      (hv : i ∈ [Instr.init, .ldst, .cmpr, .staf] ∨ t.v = s.v) : RoundEffect s i t
  | start {t : State} (b : List Byte) (hb : b.length = 64)
      (h : t.roundRegs = ⟨s.v, s.v, expand b, mixing (expand b), 0, true⟩) : RoundEffect s .blkb t
  | round {t : State} (hrnd : s.rnd.toNat < 64) (h : t.roundRegs =
      { s.roundRegs with wk := roundFn s.rnd.toNat s.wk s.w s.w1, rnd := s.rnd + 1 }) : RoundEffect s .rstep t
  | finish {t : State} (h : t.roundRegs = { s.roundRegs with v := s.v.xor s.wk, cfact := false }) :
      RoundEffect s .blke t

theorem exec_roundEffect {i : Instr} {s t : State} (h : exec i s = .next t) : RoundEffect s i t := by
  cases i with
  | blkb =>
    obtain rfl := Host.Outcome.next.inj h
    exact State.perform_induction (fun e _ => .keep rfl) fun _ =>
      .start (s.readBytes s.srcAddr 64) (by simp) (by simp [State.roundRegs])
  | rstep =>
    obtain rfl := Host.Outcome.next.inj h
    refine State.perform_induction (fun e _ => .keep rfl) fun hpass => .round ?_ (by simp [State.roundRegs])
    have hopen : (!s.cfact || decide (64 ≤ s.rnd.toNat)) = false := hpass _ List.mem_cons_self
    simpa using (Bool.or_eq_false_iff.mp hopen).2
  | blke =>
    obtain rfl := Host.Outcome.next.inj h
    exact State.perform_induction (fun e _ => .keep rfl) fun _ => .finish (by simp [State.roundRegs])
  | mkprh =>
    rcases exec_mkprh_cases h with ⟨n, e, -, rfl⟩ | ⟨i, rfl⟩ <;>
      exact .keep (by simp [State.roundRegs, State.writeProof])
  | mkvfy =>
    rcases exec_mkvfy_cases h with ⟨n, e, -, rfl⟩ | ⟨n, r, rfl⟩
    · exact .keep rfl
    · exact .close (by decide) rfl rfl (.inr (by simp))
  | stst | hexst | pad | padt | mkclr | mkprv =>
    obtain rfl := Host.Outcome.next.inj h
    exact .keep (State.perform_keeps (fun _ => rfl) (by simp [State.roundRegs, State.writeProof]))
  | _ =>
    obtain rfl := Host.Outcome.next.inj h
    exact State.perform_induction (fun e _ => .keep rfl) fun _ => .close (by decide)
      (by simp [State.hashTo]) (by simp [State.hashTo]) (by simp [State.hashTo])

/-! ### What a host step changes -/

/-- What an admitted host step can do. -/
inductive HostEffect (s : State) : State → Prop
  | read (off : Nat) (x : Word) : HostEffect s (s.logRead (.reg off x))
  | memRead (a : Nat) (b : Byte) : HostEffect s ((s.draw 1).logRead (.mem a b))
  | memWrite (a : Nat) (b : Byte) (ha : a < s.params.memBytes) : HostEffect s (s.writeBytes a [b])
  | reset : HostEffect s s.resetEngine
  | write (x : Word) (r : Reg) (hr : r ≠ .cmd) : HostEffect s (s.writeReg x r)
  | illegal (x : Word) : HostEffect s ((s.writeReg x .cmd).raise .illegalCmd)
  | command {t : State} (x : Word) (i : Instr) (hi : decode x = .ok i) (h : exec i (s.writeReg x .cmd) = .next t) :
      HostEffect s t

theorem runCommand_effect {x : Word} {s t : State} (h : runCommand x (s.writeReg x .cmd) = .next t) :
    HostEffect s t := by
  unfold runCommand at h
  split at h
  · next i hi => exact .command x i hi h
  · exact Host.Outcome.next.inj h ▸ .illegal x

theorem mmioStore_effect {off : Nat} {x : Word} {s t : State} (h : mmioStore off x s = .next t) : HostEffect s t := by
  unfold mmioStore at h
  split at h
  · exact runCommand_effect h
  · next hr => exact Host.Outcome.next.inj h ▸ .write x _ hr

theorem hostStep_effect {op : HostOp} {s t : State} (h : hostStep op s = .next t) : HostEffect s t := by
  cases op with
  | mmioRead width off =>
    simp only [hostStep] at h
    split at h
    · cases h
    · exact Host.Outcome.next.inj h ▸ .read off _
  | mmioWrite width off x =>
    simp only [hostStep] at h
    split at h
    · cases h
    · exact mmioStore_effect h
  | memRead a =>
    simp only [hostStep] at h
    split at h
    · exact Host.Outcome.next.inj h ▸ .memRead a _
    · cases h
  | memWrite a b =>
    simp only [hostStep] at h
    split at h
    · next ha => exact Host.Outcome.next.inj h ▸ .memWrite a b ha
    · cases h
  | reset => exact Host.Outcome.next.inj h ▸ .reset

/-- A step idles when no host step is to come, and otherwise takes the first one. -/
theorem step_cases {s t : State} (h : step s = .next t) :
    t = s ∨ ∃ op rest, s.hostQueue = op :: rest ∧ HostEffect { s with hostQueue := rest } t := by
  unfold step at h
  split at h
  · exact .inl (Host.Outcome.next.inj h).symm
  · next op rest hq => exact .inr ⟨op, rest, hq, hostStep_effect h⟩

/-- The registers that the invariants of Safety.lean but MemInv speak of are as they were. -/
structure SameEngine (s t : State) : Prop where
  tree : t.treeRegs = s.treeRegs
  round : t.roundRegs = s.roundRegs
  params : t.params = s.params

/-- No register that the host can write is one of them. -/
theorem State.writeReg_sameEngine (s : State) (x : Word) (r : Reg) : SameEngine s (s.writeReg x r) := by
  cases r <;> exact ⟨rfl, rfl, rfl⟩

/-- To be kept by every step, a property of those registers has to hold after reset and be kept by every command. -/
theorem step_keeps {P : State → Prop} (hcongr : ∀ s t, P s → SameEngine s t → P t)
    (hreset : ∀ s, P s → P s.resetEngine) (hexec : ∀ i s t, P s → exec i s = .next t → P t) {s t : State}
    (hs : P s) (h : step s = .next t) : P t := by
  rcases step_cases h with rfl | ⟨op, rest, -, heffect⟩
  · exact hs
  have hs : P { s with hostQueue := rest } := hcongr s _ hs ⟨rfl, rfl, rfl⟩
  cases heffect with
  | read | memRead | memWrite | illegal => exact hcongr _ _ hs ⟨rfl, rfl, rfl⟩
  | reset => exact hreset _ hs
  | write x r => exact hcongr _ _ hs (State.writeReg_sameEngine _ x r)
  | command x i _ h => exact hexec i _ _ (hcongr _ _ hs (State.writeReg_sameEngine _ x .cmd)) h

/-! ### The invariants of the leaf store, the round sequence and the tree -/

/-- Settles O8: of the effects on V and the round sequence, those that change V are effects of the five commands. -/
theorem onlyFiveCommandsWriteV : Obligations.OnlyFiveCommandsWriteV := by
  intro i s t h hv
  cases exec_roundEffect h with
  | keep hkeep => exact absurd (congrArg RoundRegs.v hkeep) hv
  | close _ _ _ hwrites => 
    rcases hwrites with hi | hsame
    · simp only [List.mem_cons] at hi ⊢; tauto
    · exact absurd hsame hv
  | start b _ hopen => exact absurd (congrArg RoundRegs.v hopen) hv
  | round _ hround => exact absurd (congrArg RoundRegs.v hround) hv
  | finish => decide

/-- Settles O9, by the four effects a command can have on the tree. -/
theorem onlyMerkleCommandsWriteTheTree : Obligations.OnlyMerkleCommandsWriteTheTree := by
  intro i s t h
  cases exec_treeEffect h with
  | keep heq | clear heq | append _ _ heq | build _ heq => simp_all [State.treeRegs]

theorem State.leafList_congr {s t : State} (hleaf : t.leaf = s.leaf) (hcnt : t.leafCnt = s.leafCnt) :
    t.leafList = s.leafList := by
  have hat : t.leafAt = s.leafAt := by funext i; simp only [State.leafAt, hleaf]
  simp only [State.leafList, hcnt, hat]

theorem State.LeafInv.congr {s t : State} (hs : s.LeafInv) (hleaf : t.leaf = s.leaf) (hcnt : t.leafCnt = s.leafCnt)
    (hparams : t.params = s.params) : t.LeafInv := by
  simpa only [State.LeafInv, hleaf, hcnt, hparams] using hs

/-- The slot that MKLEAF writes is the one LEAFCNT then counts in (45_merkle.md R411). -/
theorem State.LeafInv.append {s t : State} {d : Words8} (hok : s.params.ok = true) (hs : s.LeafInv)
    (hroom : s.leafCnt.toNat ≠ s.params.maxLeaves) (hleaf : t.leaf = storeSet s.leaf s.leafCnt.toNat d)
    (hcnt : t.leafCnt = s.leafCnt + 1) (hparams : t.params = s.params) : t.LeafInv := by
  obtain ⟨hwf, hle, hslots, hwritten⟩ := hs
  simp only [Params.ok, decide_eq_true_eq] at hok
  have hn : t.leafCnt.toNat = s.leafCnt.toNat + 1 := by
    rw [hcnt, BitVec.toNat_add_of_lt] <;> simp; omega
  refine ⟨hleaf ▸ storeWf_storeSet _ _ hwf, ?_, fun c hc => ?_, fun i hi => ?_⟩
  · rw [hn, hparams]; omega
  · rw [hleaf] at hc
    rw [hparams]
    rcases mem_storeSet hc with rfl | hc
    · show s.leafCnt.toNat < _; omega
    · exact hslots c hc
  · rw [hleaf]
    by_cases heq : i = s.leafCnt.toNat
    · rw [heq, storeGet_storeSet_self]; rfl
    · rw [storeGet_storeSet_of_ne _ _ heq]
      exact hwritten i (by omega)

theorem exec_keeps_leafInv {i : Instr} {s t : State} (hok : s.params.ok = true) (hs : s.LeafInv)
    (h : exec i s = .next t) : t.LeafInv := by
  have hparams := exec_params h
  cases exec_treeEffect h with
  | keep hkeep => exact hs.congr (congrArg TreeRegs.leaf hkeep) (congrArg TreeRegs.leafCnt hkeep) hparams
  | clear hclear =>
    obtain ⟨hwf, -, hslots, -⟩ := hs
    have hleaf : t.leaf = s.leaf := congrArg TreeRegs.leaf hclear
    have hcnt : t.leafCnt = 0 := congrArg TreeRegs.leafCnt hclear
    refine ⟨hleaf ▸ hwf, ?_, hleaf ▸ hparams ▸ hslots, ?_⟩ <;> simp [hcnt]
  | append d hroom happend =>
    exact hs.append hok hroom (congrArg TreeRegs.leaf happend) (congrArg TreeRegs.leafCnt happend) hparams
  | build _ hbuild => exact hs.congr (congrArg TreeRegs.leaf hbuild) (congrArg TreeRegs.leafCnt hbuild) hparams

/-- Settles O16, with the range of the parameters as part of what every step keeps. -/
theorem stepKeepsLeafStore : Obligations.StepKeepsLeafStore := by
  intro s t hok hs h
  refine (step_keeps (P := fun s => s.params.ok = true ∧ s.LeafInv) ?_ ?_ ?_ ⟨hok, hs⟩ h).2
  · rintro s t ⟨hok, hs⟩ ⟨htree, -, hparams⟩
    exact ⟨hparams ▸ hok, hs.congr (congrArg TreeRegs.leaf htree) (congrArg TreeRegs.leafCnt htree) hparams⟩
  · rintro s ⟨hok, -⟩
    exact ⟨hok, by simp [State.LeafInv, State.reset, storeWf]⟩
  · rintro i s t ⟨hok, hs⟩ h
    exact ⟨exec_params h ▸ hok, exec_keeps_leafInv hok hs h⟩

theorem State.TreeInv.congr {s t : State} (hs : s.TreeInv) (h : t.treeRegs = s.treeRegs) : t.TreeInv := by
  simp only [State.treeRegs, TreeRegs.mk.injEq] at h
  obtain ⟨hleaf, hcnt, hbuilt, hdepth, hroot⟩ := h
  have hlist := State.leafList_congr hleaf hcnt
  simpa only [State.TreeInv, hlist, hcnt, hbuilt, hdepth, hroot] using hs

theorem State.treeInv_of_not_built {s : State} (h : s.built = false) : s.TreeInv := by
  simp [State.TreeInv, h]

theorem exec_keeps_treeInv {i : Instr} {s t : State} (hs : s.TreeInv) (h : exec i s = .next t) : t.TreeInv := by
  cases exec_treeEffect h with
  | keep hkeep => exact hs.congr hkeep
  | clear hclear => exact State.treeInv_of_not_built (congrArg TreeRegs.built hclear)
  | append d _ happend => exact State.treeInv_of_not_built (congrArg TreeRegs.built happend)
  | build hne hbuild =>
    intro _
    have hcnt : t.leafCnt = s.leafCnt := congrArg TreeRegs.leafCnt hbuild
    rw [State.leafList_congr (congrArg TreeRegs.leaf hbuild) hcnt, hcnt]
    exact ⟨hne, congrArg TreeRegs.root hbuild, congrArg TreeRegs.depth hbuild⟩

/-- Settles O18: MKBLD makes the tree registers those of the current leaves, and what changes the leaves clears BUILT. -/
theorem stepKeepsBuiltTree : Obligations.StepKeepsBuiltTree := fun _ _ =>
  step_keeps (fun _ _ hs hsame => hs.congr hsame.tree) (fun _ _ => State.treeInv_of_not_built rfl)
    (fun _ _ _ => exec_keeps_treeInv)

theorem State.RoundInv.congr {s t : State} (hs : s.RoundInv) (h : t.roundRegs = s.roundRegs) : t.RoundInv := by
  simp only [State.roundRegs, RoundRegs.mk.injEq] at h
  obtain ⟨hv, hwk, hw, hw1, hrnd, hcfact⟩ := h
  simpa only [State.RoundInv, hv, hwk, hw, hw1, hrnd, hcfact] using hs

theorem State.roundInv_of_closed {s : State} (hrnd : s.rnd.toNat ≤ 64) (hcfact : s.cfact = false) : s.RoundInv :=
  ⟨hrnd, by simp [hcfact]⟩

/-- RSTEP carries WK from the state after RND rounds to the state after one more (43_compression.md R316). -/
theorem State.RoundInv.round {s t : State} (hs : s.RoundInv) (hrnd : s.rnd.toNat < 64)
    (h : t.roundRegs = { s.roundRegs with wk := roundFn s.rnd.toNat s.wk s.w s.w1, rnd := s.rnd + 1 }) :
    t.RoundInv := by
  simp only [State.roundRegs, RoundRegs.mk.injEq] at h
  obtain ⟨hv, hwk, hw, hw1, hrnd', hcfact⟩ := h
  have hn : t.rnd.toNat = s.rnd.toNat + 1 := by
    rw [hrnd', BitVec.toNat_add_of_lt] <;> simp; omega
  obtain ⟨-, hopen⟩ := hs
  refine ⟨by omega, fun ht => ?_⟩
  obtain ⟨b, hb, hsw, hsw1, hswk⟩ := hopen (hcfact ▸ ht)
  exact ⟨b, hb, hw.trans hsw, hw1.trans hsw1, by rw [hwk, hn, hw, hw1, hv, rounds, ← hswk]⟩

theorem exec_keeps_roundInv {i : Instr} {s t : State} (hs : s.RoundInv) (h : exec i s = .next t) : t.RoundInv := by
  cases exec_roundEffect h with
  | keep hkeep => exact hs.congr hkeep
  | close _ hcfact hrnd => exact State.roundInv_of_closed (by simp [hrnd]) hcfact
  | start b hb hopen =>
    have hrnd : t.rnd = 0 := congrArg RoundRegs.rnd hopen
    have hv : t.v = s.v := congrArg RoundRegs.v hopen
    refine ⟨by simp [hrnd], fun _ => ⟨b, hb, congrArg RoundRegs.w hopen, congrArg RoundRegs.w1 hopen, ?_⟩⟩
    rw [hrnd, hv]
    exact congrArg RoundRegs.wk hopen
  | round hrnd hround => exact hs.round hrnd hround
  | finish hfinish =>
    have hrnd : t.rnd = s.rnd := congrArg RoundRegs.rnd hfinish
    exact State.roundInv_of_closed (hrnd ▸ hs.1) (congrArg RoundRegs.cfact hfinish)

/-- Settles O17: BLKB opens a sequence at round 0, RSTEP carries it on, and every other command that touches it closes
it. -/
theorem stepKeepsRoundSequence : Obligations.StepKeepsRoundSequence := fun _ _ =>
  step_keeps (fun _ _ hs hsame => hs.congr hsame.round) (fun _ _ => State.roundInv_of_closed (by simp [State.reset]) rfl)
    (fun _ _ _ => exec_keeps_roundInv)

end Sys2Proof.Machine
end

section
/-! ### CONFIG.STRAT has no effect -/

namespace Sys2Proof.Machine

/-- The same state with another CONFIG.STRAT (10_state.md R55). -/
def State.withStrat (s : State) (x : BitVec 2) : State := { s with strat := x }

section withStrat
variable (s : State) (x : BitVec 2)

/-! What a command reads of the state does not depend on STRAT. -/

@[simp] theorem State.withStrat_v : (s.withStrat x).v = s.v := rfl
@[simp] theorem State.withStrat_wk : (s.withStrat x).wk = s.wk := rfl
@[simp] theorem State.withStrat_w : (s.withStrat x).w = s.w := rfl
@[simp] theorem State.withStrat_w1 : (s.withStrat x).w1 = s.w1 := rfl
@[simp] theorem State.withStrat_rnd : (s.withStrat x).rnd = s.rnd := rfl
@[simp] theorem State.withStrat_leafCnt : (s.withStrat x).leafCnt = s.leafCnt := rfl
@[simp] theorem State.withStrat_depth : (s.withStrat x).depth = s.depth := rfl
@[simp] theorem State.withStrat_srcAddr : (s.withStrat x).srcAddr = s.srcAddr := rfl
@[simp] theorem State.withStrat_dstAddr : (s.withStrat x).dstAddr = s.dstAddr := rfl
@[simp] theorem State.withStrat_ptr2Addr : (s.withStrat x).ptr2Addr = s.ptr2Addr := rfl
@[simp] theorem State.withStrat_lenVal : (s.withStrat x).lenVal = s.lenVal := rfl
@[simp] theorem State.withStrat_auxVal : (s.withStrat x).auxVal = s.auxVal := rfl
@[simp] theorem State.withStrat_padField (l : Bool) : (s.withStrat x).padField l = s.padField l := rfl
@[simp] theorem State.withStrat_readBytes (a n : Nat) : (s.withStrat x).readBytes a n = s.readBytes a n := rfl
@[simp] theorem State.withStrat_leafList : (s.withStrat x).leafList = s.leafList := rfl
@[simp] theorem State.withStrat_leafMatches (h : Words8) : (s.withStrat x).leafMatches h = s.leafMatches h := rfl
@[simp] theorem State.withStrat_headerDepth : (s.withStrat x).headerDepth = s.headerDepth := rfl
@[simp] theorem State.withStrat_headerIndex : (s.withStrat x).headerIndex = s.headerIndex := rfl
@[simp] theorem State.withStrat_proofAt (k : Nat) : (s.withStrat x).proofAt k = s.proofAt k := rfl

/-! Every operation of a command keeps STRAT and does with it what it does without. -/

@[simp] theorem State.withStrat_draw (n : Nat) : (s.withStrat x).draw n = (s.draw n).withStrat x := rfl
@[simp] theorem State.withStrat_writeBytes (a : Nat) (bs : List Byte) :
    (s.withStrat x).writeBytes a bs = (s.writeBytes a bs).withStrat x := rfl
@[simp] theorem State.withStrat_setV (y : Words8) : (s.withStrat x).setV y = (s.setV y).withStrat x := rfl
@[simp] theorem State.withStrat_setWk (y : Words8) : (s.withStrat x).setWk y = (s.setWk y).withStrat x := rfl
@[simp] theorem State.withStrat_setSchedule (w : Vector Word 68) (w1 : Vector Word 64) :
    (s.withStrat x).setSchedule w w1 = (s.setSchedule w w1).withStrat x := rfl
@[simp] theorem State.withStrat_setRnd (n : BitVec 7) : (s.withStrat x).setRnd n = (s.setRnd n).withStrat x := rfl
@[simp] theorem State.withStrat_setCfact (b : Bool) : (s.withStrat x).setCfact b = (s.setCfact b).withStrat x := rfl
@[simp] theorem State.withStrat_setResult (n : Nat) : (s.withStrat x).setResult n = (s.setResult n).withStrat x := rfl
@[simp] theorem State.withStrat_setTree (b : Bool) (d : BitVec 6) (r : Words8) :
    (s.withStrat x).setTree b d r = (s.setTree b d r).withStrat x := rfl
@[simp] theorem State.withStrat_setLeafCnt (n : Word) :
    (s.withStrat x).setLeafCnt n = (s.setLeafCnt n).withStrat x := rfl
@[simp] theorem State.withStrat_setLeaf (i : Nat) (d : Words8) :
    (s.withStrat x).setLeaf i d = (s.setLeaf i d).withStrat x := rfl
@[simp] theorem State.withStrat_setStale : (s.withStrat x).setStale = s.setStale.withStrat x := rfl
@[simp] theorem State.withStrat_abandon : (s.withStrat x).abandon = s.abandon.withStrat x := rfl
@[simp] theorem State.withStrat_scramble : (s.withStrat x).scramble = s.scramble.withStrat x := rfl
@[simp] theorem State.withStrat_succeed : (s.withStrat x).succeed = s.succeed.withStrat x := rfl
@[simp] theorem State.withStrat_raise (e : Code) : (s.withStrat x).raise e = (s.raise e).withStrat x := rfl
@[simp] theorem State.withStrat_hashTo (ser : List Byte → List Byte) :
    (s.withStrat x).hashTo ser = (s.hashTo ser).withStrat x := by
  simp [State.hashTo]
@[simp] theorem State.withStrat_writeProof (i : Nat) :
    (s.withStrat x).writeProof i = (s.writeProof i).withStrat x := by
  simp [State.writeProof]

theorem State.guarded_withStrat {cs : List (Bool × Code)} {k k' : State → State}
    (hk : k (s.withStrat x) = (k' s).withStrat x) :
    (s.withStrat x).guarded cs k = (s.guarded cs k').withStrat x := by
  unfold State.guarded
  cases firstError cs with
  | none => exact hk
  | some e => rfl

theorem State.perform_withStrat {cs cs' : List (Bool × Code)} {f : State → State} (hcs : cs' = cs)
    (hf : f (s.withStrat x) = (f s).withStrat x) : (s.withStrat x).perform cs' f = (s.perform cs f).withStrat x :=
  hcs ▸ State.guarded_withStrat s x (by rw [hf, State.withStrat_succeed])

end withStrat

theorem exec_withStrat {i : Instr} {s t : State} (x : BitVec 2) (h : exec i s = .next t) :
    exec i (s.withStrat x) = .next (t.withStrat x) := by
  cases i with
  | mkprh =>
    obtain rfl := Host.Outcome.next.inj h
    refine congrArg Host.Outcome.next (State.guarded_withStrat s x ?_)
    dsimp only [State.withStrat_readBytes, State.withStrat_srcAddr, State.withStrat_leafMatches]
    split <;> simp
  | mkvfy =>
    obtain rfl := Host.Outcome.next.inj h
    refine congrArg Host.Outcome.next (State.guarded_withStrat s x ?_)
    simp only [State.withStrat_draw]
    refine State.guarded_withStrat (s.draw 72) x ?_
    simp <;> rfl
  | _ =>
    obtain rfl := Host.Outcome.next.inj h
    exact congrArg Host.Outcome.next (State.perform_withStrat s x rfl (by simp))

/-- Settles O12: each operation of a command commutes with a change of STRAT, and no check reads it. -/
theorem strategyHasNoEffect : Obligations.StrategyHasNoEffect := fun _ _ _ x h => exec_withStrat x h

end Sys2Proof.Machine
end

section
/-! ### The register window -/

namespace Sys2Proof

/-- From 0x03C on, the map is that of the arrays and the reserved offsets (10_state.md R71). -/
theorem Reg.ofOffset_of_le {off : Nat} (h : 0x03C ≤ off) : Reg.ofOffset off = Reg.ofArrayOffset off := by
  unfold Reg.ofOffset
  split
  case h_16 => rfl
  all_goals omega

theorem Reg.ofOffset_arrays (i : Fin 8) :
    Reg.ofOffset (0x040 + 4 * i.val) = .v i ∧ Reg.ofOffset (0x060 + 4 * i.val) = .wk i ∧
      Reg.ofOffset (0x080 + 4 * i.val) = .root i := by
  revert i; decide

theorem Reg.ofOffset_w (j : Fin 68) : Reg.ofOffset (0x100 + 4 * j.val) = .w j := by revert j; decide

theorem Reg.ofOffset_w1 (j : Fin 64) : Reg.ofOffset (0x300 + 4 * j.val) = .w1 j := by revert j; decide

theorem Reg.ofOffset_offset (r : Reg) : Reg.ofOffset r.offset = r := by
  cases r with
  | v i => exact (Reg.ofOffset_arrays i).1
  | wk i => exact (Reg.ofOffset_arrays i).2.1
  | root i => exact (Reg.ofOffset_arrays i).2.2
  | w j => exact Reg.ofOffset_w j
  | w1 j => exact Reg.ofOffset_w1 j
  | _ => rfl

theorem Reg.offset_aligned (r : Reg) : r.offset < 4096 ∧ r.offset % 4 = 0 := by
  cases r <;> simp [Reg.offset] <;> omega

theorem Reg.ofOffset_low : ∀ k < 15, Reg.ofOffset (4 * k) ≠ .reserved ∧ (Reg.ofOffset (4 * k)).offset = 4 * k := by
  decide

theorem Reg.ofArrayOffset_eq_reserved_iff {off : Nat} (h : 0x03C ≤ off) (ha : off % 4 = 0) :
    Reg.ofArrayOffset off = .reserved ↔
      off = 0x03C ∨ (0x0A0 ≤ off ∧ off ≤ 0x0FC) ∨ (0x210 ≤ off ∧ off ≤ 0x2FC) ∨ 0x400 ≤ off := by
  unfold Reg.ofArrayOffset
  split_ifs <;> simp <;> omega

theorem Reg.offset_ofArrayOffset {off : Nat} (ha : off % 4 = 0) (h : Reg.ofArrayOffset off ≠ .reserved) :
    (Reg.ofArrayOffset off).offset = off := by
  unfold Reg.ofArrayOffset at h ⊢
  split_ifs at h ⊢ <;> simp [Reg.offset] at h ⊢ <;> omega

end Sys2Proof

namespace Sys2Proof.Machine

/-- Settles O21: below 0x03C the table is finite, and from there on the map is that of the five arrays. -/
theorem registerMap : Obligations.RegisterMap := by
  refine ⟨by decide, Reg.ofOffset_arrays, Reg.ofOffset_w, Reg.ofOffset_w1, Reg.ofOffset_offset, fun off _ ha => ?_⟩
  by_cases h : 0x03C ≤ off
  · rw [Reg.ofOffset_of_le h]
    exact ⟨Reg.ofArrayOffset_eq_reserved_iff h ha, Reg.offset_ofArrayOffset ha⟩
  · obtain ⟨k, rfl⟩ := Nat.dvd_of_mod_eq_zero ha
    obtain ⟨hnamed, hoffset⟩ := Reg.ofOffset_low k (by omega)
    exact ⟨iff_of_false hnamed (by omega), fun _ => hoffset⟩

/-! ### What an aligned access does -/

theorem reads_register (s : State) (r : Reg) : Reads s r.offset (s.readReg r) := by
  obtain ⟨h, ha⟩ := r.offset_aligned
  simp only [Reads, hostStep_mmioRead s h ha, Reg.ofOffset_offset]

theorem reads_of_eq {s : State} {r : Reg} {x : Word} (h : s.readReg r = x) : Reads s r.offset x :=
  h ▸ reads_register s r

/-- A write to a register other than CMD stores through it and does nothing else. -/
theorem hostStep_writeRegister (s : State) (x : Word) {r : Reg} (hr : r ≠ .cmd) :
    hostStep (.mmioWrite 32 r.offset x) s = .next (s.writeReg x r) := by
  obtain ⟨h, ha⟩ := r.offset_aligned
  rw [hostStep_mmioWrite s x h ha, mmioStore, Reg.ofOffset_offset, if_neg hr]

/-- A write to CMD stores the word and runs it (10_state.md R53). -/
theorem hostStep_writeCmd (s : State) (x : Word) :
    hostStep (.mmioWrite 32 0x004 x) s = runCommand x { s with cmd := x } :=
  hostStep_mmioWrite s x (by decide) (by decide)

theorem runCommand_next (x : Word) (s : State) : ∃ t, runCommand x s = .next t ∧ t.cmd = s.cmd := by
  unfold runCommand
  split
  · next i _ =>
    obtain ⟨t, ht⟩ := exec_next i s
    exact ⟨t, ht, congrArg KeptRegs.cmd (exec_keptRegs ht)⟩
  · exact ⟨_, rfl, rfl⟩

/-- Settles O3: the step takes the CMD write, and the word it stores decodes to `i`. -/
theorem stepRunsDecodedCommand : Obligations.StepRunsDecodedCommand := by
  intro s c i rest hq hdecode
  simp only [step, hq, hostStep_writeCmd, runCommand, hdecode]

/-- Settles O20: ID is the register at offset 0, and a write to it stores nothing. -/
theorem idIsConstant : Obligations.IdIsConstant := fun s x =>
  ⟨rfl, hostStep_writeRegister s x (r := .id) (by decide)⟩

/-! ### Fields and halves as integers -/

theorem lowHalf_eq (x : BitVec 64) : x.extractLsb' 0 32 = BitVec.ofNat 32 (x.toNat % 2 ^ 32) := by
  apply BitVec.eq_of_toNat_eq; simp

theorem highHalf_eq (x : BitVec 64) : x.extractLsb' 32 32 = BitVec.ofNat 32 (x.toNat / 2 ^ 32) := by
  apply BitVec.eq_of_toNat_eq; simp [Nat.shiftRight_eq_div_pow]

theorem toNat_append_eq {m n : Nat} (x : BitVec m) (y : BitVec n) : (x ++ y).toNat = x.toNat * 2 ^ n + y.toNat := by
  rw [BitVec.toNat_append, ← Nat.shiftLeft_add_eq_or_of_lt y.isLt, Nat.shiftLeft_eq]

theorem get_eq_eightWords_getD (x : Words8) (i : Fin 8) : x.get i = (eightWords x).getD i.val 0 := by
  fin_cases i <;> rfl

theorem State.readReg_config (s : State) : s.readReg .config = BitVec.ofNat 32 s.strat.toNat :=
  (BitVec.ofNat_toNat ..).symm

theorem State.readReg_rnd (s : State) : s.readReg .rnd = BitVec.ofNat 32 s.rnd.toNat := (BitVec.ofNat_toNat ..).symm

theorem State.readReg_depth (s : State) : s.readReg .depth = BitVec.ofNat 32 s.depth.toNat :=
  (BitVec.ofNat_toNat ..).symm

/-! ### Registers that a write does not change -/

/-- ID and everything from RESULT_LO on is read-only or reserved (10_state.md R71, R72). -/
theorem readOnly_ofOffset {off : Nat} (ha : off % 4 = 0) (hro : off = 0x000 ∨ 0x028 ≤ off) :
    Reg.ofOffset off ≠ .cmd ∧ ∀ (s : State) (x : Word), s.writeReg x (Reg.ofOffset off) = s := by
  by_cases harray : 0x03C ≤ off
  · rw [Reg.ofOffset_of_le harray]
    unfold Reg.ofArrayOffset
    split_ifs <;> exact ⟨by simp, fun _ _ => rfl⟩
  · obtain rfl | rfl | rfl | rfl | rfl | rfl :
      off = 0x000 ∨ off = 0x028 ∨ off = 0x02C ∨ off = 0x030 ∨ off = 0x034 ∨ off = 0x038 := by omega
    all_goals exact ⟨by decide, fun _ _ => rfl⟩

theorem hostStep_write_readOnly (s : State) (x : Word) {off : Nat} (h : off < 4096) (ha : off % 4 = 0)
    (hro : off = 0x000 ∨ 0x028 ≤ off) : hostStep (.mmioWrite 32 off x) s = .next s := by
  obtain ⟨hcmd, hkeeps⟩ := readOnly_ofOffset ha hro
  rw [hostStep_mmioWrite s x h ha, mmioStore, if_neg hcmd, hkeeps]

theorem mmioRefusal_busError {width off : Nat} (h : off < 4096) (hbad : width ≠ 32 ∨ off % 4 ≠ 0) :
    mmioRefusal width off = some .mmioBusError := by
  rw [mmioRefusal, if_neg (by omega), if_pos hbad]

/-- Settles O22, each register read through the map of R71. -/
theorem mmioAccessRules : Obligations.MmioAccessRules := by
  refine ⟨fun s width off x h hbad => ?_, fun s off h ha => ⟨_, hostStep_mmioRead s h ha⟩, fun s => ?_, fun s i => ?_,
    fun s j => reads_register s (.w j), fun s j => reads_register s (.w1 j), fun s off h ha hres => ?_,
    fun s off x h ha hro => hostStep_write_readOnly s x h ha (hro.imp_right And.left)⟩
  · simp only [hostStep, mmioRefusal_busError h hbad, and_self]
  · exact ⟨reads_register s .id, reads_register s .cmd, reads_register s .status,
      reads_of_eq (r := .config) s.readReg_config, reads_register s .src, reads_register s .len,
      reads_register s .dst, reads_register s .ptr2, reads_of_eq (r := .auxLo) (lowHalf_eq s.aux),
      reads_of_eq (r := .auxHi) (highHalf_eq s.aux),
      reads_of_eq (r := .resultLo) (lowHalf_eq s.result), reads_of_eq (r := .resultHi) (highHalf_eq s.result),
      reads_of_eq (r := .rnd) s.readReg_rnd, reads_register s .leafcnt, reads_of_eq (r := .depth) s.readReg_depth⟩
  · exact ⟨reads_of_eq (r := .v i) (get_eq_eightWords_getD s.v i),
      reads_of_eq (r := .wk i) (get_eq_eightWords_getD s.wk i),
      reads_of_eq (r := .root i) (get_eq_eightWords_getD s.root i)⟩
  · have hreserved : Reg.ofOffset off = .reserved := by
      rw [Reg.ofOffset_of_le (by omega)]
      exact (Reg.ofArrayOffset_eq_reserved_iff (by omega) ha).mpr hres
    rw [Reads, hostStep_mmioRead s h ha, hreserved]
    rfl

/-! ### Writable registers and STATUS -/

theorem State.writeAuxLo_toNat (s : State) (x : Word) :
    (s.writeAuxLo x).aux.toNat = s.aux.toNat / 2 ^ 32 * 2 ^ 32 + x.toNat := by
  have := s.aux.isLt
  rw [State.writeAuxLo_aux, toNat_append_eq, highHalf_eq, BitVec.toNat_ofNat]; omega

theorem State.writeAuxHi_toNat (s : State) (x : Word) :
    (s.writeAuxHi x).aux.toNat = x.toNat * 2 ^ 32 + s.aux.toNat % 2 ^ 32 := by
  rw [State.writeAuxHi_aux, toNat_append_eq, lowHalf_eq, BitVec.toNat_ofNat]; omega

theorem State.readReg_writeAuxLo (s : State) (x : Word) : (s.writeAuxLo x).readReg .auxLo = x :=
  BitVec.extractLsb'_append_eq_right

theorem State.readReg_writeAuxHi (s : State) (x : Word) : (s.writeAuxHi x).readReg .auxHi = x :=
  BitVec.extractLsb'_append_eq_left

theorem strat_of_write (x : Word) : (x.extractLsb' 0 2).zeroExtend 32 = BitVec.ofNat 32 (x.toNat % 4) := by
  apply BitVec.eq_of_toNat_eq; simp

/-- Settles O23: a command that a CMD write starts keeps CMD, and every other write is one field of the state. -/
theorem writableRegisters : Obligations.WritableRegisters := by
  intro s x
  refine ⟨?_, ⟨_, hostStep_writeRegister s x (r := .config) (by decide), rfl, ?_⟩,
    ⟨_, hostStep_writeRegister s x (r := .src) (by decide), rfl, reads_register _ .src⟩,
    ⟨_, hostStep_writeRegister s x (r := .len) (by decide), rfl, reads_register _ .len⟩,
    ⟨_, hostStep_writeRegister s x (r := .dst) (by decide), rfl, reads_register _ .dst⟩,
    ⟨_, hostStep_writeRegister s x (r := .ptr2) (by decide), rfl, reads_register _ .ptr2⟩,
    ⟨_, hostStep_writeRegister s x (r := .auxLo) (by decide), rfl, s.writeAuxLo_toNat x, ?_⟩,
    ⟨_, hostStep_writeRegister s x (r := .auxHi) (by decide), rfl, s.writeAuxHi_toNat x, ?_⟩, ?_, ?_⟩
  · obtain ⟨t, ht, hcmd⟩ := runCommand_next x { s with cmd := x }
    exact ⟨t, (hostStep_writeCmd s x).trans ht, reads_of_eq (r := .cmd) hcmd⟩
  · exact reads_of_eq (r := .config) (strat_of_write x)
  · exact reads_of_eq (r := .auxLo) (s.readReg_writeAuxLo x)
  · exact reads_of_eq (r := .auxHi) (s.readReg_writeAuxHi x)
  · show ((x.extractLsb' 0 2).zeroExtend 32).toNat = _
    rw [strat_of_write, BitVec.toNat_ofNat]; omega
  · show (s.aux.extractLsb' 32 32).toNat * _ + (s.aux.extractLsb' 0 32).toNat = _
    have := s.aux.isLt
    rw [lowHalf_eq, highHalf_eq, BitVec.toNat_ofNat, BitVec.toNat_ofNat]; omega

/-- STATUS as a sum of its fields (10_state.md R54). -/
theorem State.statusWord_toNat (s : State) : s.statusWord.toNat =
    s.built.toNat * 2 ^ 10 + s.cfact.toNat * 2 ^ 9 + s.err.toNat * 2 ^ 8 + (codeByte s.code).toNat := by
  have hzero : (0 : BitVec 21).toNat = 0 := rfl
  simp only [State.statusWord, toNat_append_eq, BitVec.toNat_ofBool, hzero]
  omega

theorem State.statusWord_fields (s : State) :
    s.statusWord.extractLsb' 0 8 = codeByte s.code ∧ s.statusWord.getLsbD 8 = s.err ∧
      s.statusWord.getLsbD 9 = s.cfact ∧ s.statusWord.getLsbD 10 = s.built ∧ s.statusWord.toNat < 2 ^ 11 := by
  refine ⟨BitVec.extractLsb'_append_eq_right, ?_, ?_, ?_, ?_⟩
  · simp only [State.statusWord, BitVec.getLsbD_append]; simp
  · simp only [State.statusWord, BitVec.getLsbD_append]; simp
  · simp only [State.statusWord, BitVec.getLsbD_append]; simp
  · have := s.built.toNat_le
    have := s.cfact.toNat_le
    have := s.err.toNat_le
    have := (codeByte s.code).isLt
    rw [State.statusWord_toNat]; omega

theorem State.writeStatus_eq (s : State) (x : Word) :
    s.writeStatus x = { s with err := if x.getLsbD 8 = true then false else s.err } := by
  rw [State.writeStatus]
  cases x.getLsbD 8 <;> simp

theorem ok_notMem_raisable (i : Instr) : Code.ok ∉ raisable i := by
  cases i with
  | pad l => cases l <;> decide
  | _ => decide

theorem Completes.err {i : Instr} {s t : State} (h : Completes i s t) :
    (t.code = .ok → t.err = s.err) ∧ (t.code ≠ .ok → t.err = true) := by
  rcases h with ⟨hok, herr⟩ | ⟨n, e, he, rfl⟩
  · exact ⟨fun _ => herr, fun hne => absurd hok hne⟩
  · exact ⟨fun hok => absurd (hok ▸ he) (ok_notMem_raisable i), fun _ => rfl⟩

/-- Settles O24: the fields of STATUS, its W1C bit, and the two ways a command can end. -/
theorem statusRegister : Obligations.StatusRegister :=
  ⟨fun s => ⟨reads_register s .status, rfl⟩, State.statusWord_fields,
    fun s x => (hostStep_writeRegister s x (r := .status) (by decide)).trans (congrArg _ (s.writeStatus_eq x)),
    by decide, by decide, fun _ _ _ h => (exec_completes h).err⟩

end Sys2Proof.Machine
end

section
/-! ### Proofs of 20_memory.md: what commands and host accesses do to MEM -/

namespace Sys2Proof.Machine

/-- MemWrite puts its bytes at the address given, and nothing anywhere else (00_scope.md R11). -/
theorem Memory.stores_write (m : Memory) (a : Nat) (bs : List Byte) : Stores m (m.write a bs) a bs :=
  ⟨m.read_write_of_inside bs a, m.read_write_of_outside bs a⟩

theorem State.MemInv.congr {s t : State} (hs : s.MemInv) (hmem : t.mem = s.mem) (hparams : t.params = s.params) :
    t.MemInv := by
  simpa only [State.MemInv, hmem, hparams] using hs

/-- A write inside MEM lists no address outside [0, MEM_BYTES). -/
theorem State.MemInv.write {s t : State} {a : Nat} {bs : List Byte} (hs : s.MemInv) (hfits : InMem s a bs.length)
    (hmem : t.mem = s.mem.write a bs) (hparams : t.params = s.params) : t.MemInv := by
  obtain ⟨hwf, hbound⟩ := hs
  refine ⟨hmem ▸ Memory.wf_write bs s.mem a hwf, fun c hc => ?_⟩
  rw [hmem] at hc
  rw [hparams]
  rcases Memory.mem_write bs s.mem a c hc with hold | ⟨hlow, hhigh⟩
  · exact hbound c hold
  · rcases hfits with hempty | hend <;> omega

/-! ### What a command does to MEM -/

/-- The proof of leaf `i` in the tree that ROOT and DEPTH describe (45_merkle.md R405). -/
def State.proofOf (s : State) (i : Nat) : List Byte :=
  proofBytes i s.depth.toNat (proofSiblings (levels s.leafList) s.depth.toNat i)

/-- The bytes a command stores at DST when it succeeds; a command that is not listed stores none (20_memory.md R106). -/
def State.output (s : State) : Instr → List Byte
  | .stst => serialize s.v
  | .hexst => hexBytes (serialize s.v)
  | .pad l => padWith (s.readBytes s.srcAddr s.lenVal) (s.padField l)
  | .padt => padTail s.auxVal
  | .hash => sm3 (s.readBytes s.srcAddr s.lenVal)
  | .hashx => hexBytes (sm3 (s.readBytes s.srcAddr s.lenVal))
  | .mkbld => serialize (treeRoot s.leafList)
  | .mkprv => s.proofOf s.auxVal
  | .mkprh => s.proofOf ((s.leafMatches (unserialize (s.readBytes s.srcAddr 32))).headD 0)
  | .lefg => (forge (s.readBytes s.ptr2Addr 32) s.auxVal ((s.draw 32).readBytes s.srcAddr s.lenVal)).1
  | _ => []

@[simp] theorem State.proofOf_length (s : State) (i : Nat) : (s.proofOf i).length = 8 + 32 * s.depth.toNat := by
  simp [State.proofOf]

@[simp] theorem State.draw_proofOf (s : State) (n i : Nat) : (s.draw n).proofOf i = s.proofOf i := rfl

@[simp] theorem State.output_length (s : State) (i : Instr) : (s.output i).length = outputSize i s := by
  cases i with
  | pad | padt => simp [State.output, outputSize, State.lenVal, State.auxVal]
  | hexst | hashx => simp [State.output, outputSize]
  | mkprv | mkprh => exact s.proofOf_length _
  | _ => rfl

@[simp] theorem State.hashTo_mem (s : State) (ser : List Byte → List Byte) :
    (s.hashTo ser).mem = s.mem.write s.dstAddr (ser (sm3 (s.readBytes s.srcAddr s.lenVal))) := by
  simp [State.hashTo]

@[simp] theorem State.writeProof_mem (s : State) (i : Nat) :
    (s.writeProof i).mem = s.mem.write s.dstAddr (s.proofOf i) := by
  simp [State.writeProof, State.proofOf]

/-- What a command can do to MEM: nothing, or one write of its output at DST, inside MEM (20_memory.md R106, R109). -/
inductive MemEffect (s : State) (i : Instr) (t : State) : Prop
  | keep (h : t.mem = s.mem) : MemEffect s i t
  | store (hfits : InMem s s.dstAddr (outputSize i s)) (h : t.mem = s.mem.write s.dstAddr (s.output i)) :
      MemEffect s i t

theorem State.inMem_of_checks {s : State} {cs : List (Bool × Code)} {a n : Nat} (hcheck : s.checkRegion a n ∈ cs)
    (hpass : ∀ c ∈ cs, c.1 = false) : InMem s a n := by
  have hregion : s.regionOk a n = true := by simpa [State.checkRegion] using hpass _ hcheck
  exact of_decide_eq_true hregion

/-- A command that checks its output region at DST and writes its output there. -/
theorem State.perform_stores {i : Instr} {s : State} {cs : List (Bool × Code)} {f : State → State}
    (hcheck : s.checkRegion s.dstAddr (outputSize i s) ∈ cs) (hmem : (f s).mem = s.mem.write s.dstAddr (s.output i)) :
    MemEffect s i (s.perform cs f) :=
  State.perform_induction (fun _ _ => .keep rfl) fun hpass => .store (State.inMem_of_checks hcheck hpass) hmem

/-- MKPRH writes a proof only when its checks pass and exactly one leaf matches (45_merkle.md R414). -/
theorem exec_mkprh_memEffect {s t : State} (h : exec .mkprh s = .next t) : MemEffect s .mkprh t := by
  obtain rfl := Host.Outcome.next.inj h
  rcases s.guarded_cases (mkprhChecks s) _ with ⟨e, -, -, h⟩ | ⟨hpass, h⟩ <;> rw [h]
  · exact .keep rfl
  · have hcheck : s.checkRegion s.dstAddr (outputSize .mkprh s) ∈ mkprhChecks s :=
      List.mem_of_getElem? (i := 2) rfl
    split
    · exact .keep rfl
    · next i hmatch => exact .store (State.inMem_of_checks hcheck hpass) (by simp [State.output, hmatch])
    · exact .keep rfl

/-- Every command that writes MEM first checks the region at DST that its output takes. -/
theorem exec_memEffect {i : Instr} {s t : State} (h : exec i s = .next t) : MemEffect s i t := by
  cases i with
  | mkprh => exact exec_mkprh_memEffect h
  | mkvfy => rcases exec_mkvfy_cases h with ⟨n, e, -, rfl⟩ | ⟨n, r, rfl⟩ <;> exact .keep (by simp)
  | stst | hexst | pad | padt | hash | hashx | mkbld | mkprv | lefg =>
    obtain rfl := Host.Outcome.next.inj h
    refine State.perform_stores ?_ (by simp [State.output])
    simp [outputSize, ststChecks, hexstChecks, padChecks, padtChecks, hashChecks, hashxChecks, mkbldChecks,
      mkprvChecks, lefgChecks, State.lenVal, State.auxVal, proofSize]
  | init | ldst | expd | blkb | rstep | blke | cmpr | staf | mkclr | mkleaf =>
    obtain rfl := Host.Outcome.next.inj h
    exact .keep (State.perform_keeps (fun _ => rfl) (by simp))

/-- Settles O10: the one write a command can make is at DST and of its output size. -/
theorem commandsWriteOnlyTheirRegion : Obligations.CommandsWriteOnlyTheirRegion := by
  intro i s t h
  cases exec_memEffect h with
  | keep hkeep => exact ⟨fun _ => hkeep, fun a _ => hkeep ▸ rfl⟩
  | store _ hstore =>
    obtain ⟨-, houtside⟩ := s.mem.stores_write s.dstAddr (s.output i)
    rw [hstore, ← s.output_length]
    refine ⟨fun hnone => ?_, houtside⟩
    rw [List.eq_nil_of_length_eq_zero hnone, Memory.write]

theorem exec_keeps_memInv {i : Instr} {s t : State} (hs : s.MemInv) (h : exec i s = .next t) : t.MemInv := by
  cases exec_memEffect h with
  | keep hkeep => exact hs.congr hkeep (exec_params h)
  | store hfits hstore => exact hs.write (s.output_length i ▸ hfits) hstore (exec_params h)

/-! ### What a host step does to MEM -/

theorem State.writeReg_mem (s : State) (x : Word) (r : Reg) : (s.writeReg x r).mem = s.mem := by
  cases r <;> rfl

theorem State.MemInv.writeReg {s : State} (hs : s.MemInv) (x : Word) (r : Reg) : (s.writeReg x r).MemInv :=
  hs.congr (s.writeReg_mem x r) (s.writeReg_sameEngine x r).params

theorem HostEffect.keeps_memInv {s t : State} (hs : s.MemInv) (h : HostEffect s t) : t.MemInv := by
  cases h with
  | read | memRead | reset => exact hs.congr rfl rfl
  | memWrite a b ha => exact hs.write (.inr ha) rfl rfl
  | write x r => exact hs.writeReg x r
  | illegal x => exact (hs.writeReg x .cmd).congr rfl rfl
  | command x i _ h => exact exec_keeps_memInv (hs.writeReg x .cmd) h

/-- Settles O15: MEM is written only by a command, in a region it has checked, and by a host write of a byte of MEM. -/
theorem stepKeepsMemory : Obligations.StepKeepsMemory := by
  intro s t hs h
  rcases step_cases h with rfl | ⟨op, rest, -, heffect⟩
  · exact hs
  · have hs : State.MemInv { s with hostQueue := rest } := hs
    exact heffect.keeps_memInv hs

theorem hostStep_memWrite {s : State} {a : Nat} (b : Byte) (ha : a < s.params.memBytes) :
    hostStep (.memWrite a b) s = .next (s.writeBytes a [b]) := if_pos ha

theorem hostStep_memRead {s : State} {a : Nat} (ha : a < s.params.memBytes) :
    hostStep (.memRead a) s = .next ((s.draw 1).logRead (.mem a (s.byteOr a s.draws))) := if_pos ha

theorem State.byteOr_of_unwritten {s : State} {a : Nat} (h : s.mem.read a = none) (k : Nat) :
    s.byteOr a k = Config.freeByte k := by
  simp only [State.byteOr, h]

/-- Settles O25: an access inside MEM is one store or one read, and any other is the fault. -/
theorem hostMemoryAccess : Obligations.HostMemoryAccess := by
  refine ⟨fun s a b ha => ?_, fun s a b ha hread => ?_, fun s a ha hread => ?_, fun s a b ha => ?_⟩
  · exact ⟨_, hostStep_memWrite b ha, rfl, s.mem.stores_write a [b]⟩
  · refine ⟨_, hostStep_memRead ha, ?_⟩
    rw [State.byteOr_of_written hread]; rfl
  · rw [hostStep_memRead ha, State.byteOr_of_unwritten hread]; rfl
  · exact ⟨if_neg (Nat.not_lt.mpr ha), if_neg (Nat.not_lt.mpr ha)⟩

end Sys2Proof.Machine
end

section
/-! ### Proofs of 30_encoding.md: the decoder as an inverse of the encoder, and the words it rejects -/

namespace Sys2Proof

/-! ### The fields of a command word as integers -/

theorem toNat_eq_zero_iff {n : Nat} {x : BitVec n} : x.toNat = 0 ↔ x = 0 := BitVec.toNat_inj (y := 0#n)

theorem opcField_toNat (c : Word) : (opcField c).toNat = c.toNat % 256 := by
  simp [opcField]

theorem flagsField_toNat (c : Word) : (flagsField c).toNat = c.toNat / 256 % 256 := by
  simp [flagsField, Nat.shiftRight_eq_div_pow]

theorem rsvField_toNat (c : Word) : (rsvField c).toNat = c.toNat / 2 ^ 16 := by
  have := c.isLt
  simp only [rsvField, BitVec.extractLsb'_toNat, Nat.shiftRight_eq_div_pow]
  omega

theorem encode_toNat (i : Instr) : (encode i).toNat = (flagsOf i).toNat * 2 ^ 8 + (opcodeOf i).toNat := by
  have hrsv : (0 : BitVec 16).toNat = 0 := rfl
  rw [encode, Machine.toNat_append_eq, Machine.toNat_append_eq, hrsv, Nat.zero_mul, Nat.zero_add]

/-- A word is an encoding exactly when its three fields are those of the instruction (R150). -/
theorem encode_eq_iff {i : Instr} {c : Word} :
    encode i = c ↔ rsvField c = 0 ∧ opcField c = opcodeOf i ∧ flagsField c = flagsOf i := by
  have hopc := (opcodeOf i).isLt
  have hflags := (flagsOf i).isLt
  rw [← toNat_eq_zero_iff]
  simp only [← BitVec.toNat_inj, encode_toNat, opcField_toNat, flagsField_toNat, rsvField_toNat]
  omega

/-! ### The decoder, function by function -/

theorem plainCommand_eq_ok {flags : BitVec 8} {i j : Instr} :
    plainCommand flags j = .ok i ↔ j = i ∧ flags = 0 := by
  rw [plainCommand]
  split <;> simp_all

theorem flags_eq_flagsOf_pad {flags : BitVec 8} (h : flags.toNat / 2 = 0) :
    flags = flagsOf (.pad (flags.getLsbD 0)) := by
  have hbit : flags.toNat = 0 ∨ flags.toNat = 1 := by omega
  obtain rfl | rfl : flags = 0 ∨ flags = 1 := hbit.imp BitVec.eq_of_toNat_eq BitVec.eq_of_toNat_eq
  · rfl
  · rfl

theorem highFlags_eq_zero_iff (flags : BitVec 8) : flags.extractLsb' 1 7 = 0 ↔ flags.toNat / 2 = 0 := by
  have := flags.isLt
  rw [← toNat_eq_zero_iff, BitVec.extractLsb'_toNat, Nat.shiftRight_eq_div_pow]
  omega

/-- FLAGS[0] is L, and PAD defines no other FLAGS bit (R150, R151). -/
theorem padCommand_eq_ok {flags : BitVec 8} {i : Instr} :
    padCommand flags = .ok i ↔ i = .pad (flags.getLsbD 0) ∧ flags.toNat / 2 = 0 := by
  simp only [padCommand, highFlags_eq_zero_iff]
  split <;> simp_all [eq_comm]

theorem fields_of_plainCommand {op flags : BitVec 8} {i j : Instr} (hop : op.toNat = (opcodeOf j).toNat)
    (hj : flagsOf j = 0) (h : plainCommand flags j = .ok i) : op = opcodeOf i ∧ flags = flagsOf i := by
  obtain ⟨rfl, hflags⟩ := plainCommand_eq_ok.mp h
  exact ⟨BitVec.eq_of_toNat_eq hop, hflags.trans hj.symm⟩

theorem fields_of_padCommand {op flags : BitVec 8} {i : Instr} (hop : op.toNat = 0x10)
    (h : padCommand flags = .ok i) : op = opcodeOf i ∧ flags = flagsOf i := by
  obtain ⟨rfl, hflags⟩ := padCommand_eq_ok.mp h
  exact ⟨BitVec.eq_of_toNat_eq hop, flags_eq_flagsOf_pad hflags⟩

theorem decodeOpcode_encoded (i : Instr) : decodeOpcode (opcodeOf i) (flagsOf i) = .ok i := by
  cases i with
  | pad l => cases l <;> rfl
  | _ => rfl

/-- The opcode map is one-to-one: a word's OPC and FLAGS are those of the instruction it gives (R152). -/
theorem decodeOpcode_eq_ok {op flags : BitVec 8} {i : Instr} :
    decodeOpcode op flags = .ok i ↔ op = opcodeOf i ∧ flags = flagsOf i := by
  refine ⟨fun h => ?_, fun ⟨hop, hflags⟩ => hop ▸ hflags ▸ decodeOpcode_encoded i⟩
  unfold decodeOpcode at h
  split at h
  case h_5 hop => exact fields_of_padCommand hop h
  case h_22 => cases h
  all_goals exact fields_of_plainCommand (by assumption) rfl h

theorem decode_eq_ok {c : Word} {i : Instr} :
    decode c = .ok i ↔ rsvField c = 0 ∧ opcField c = opcodeOf i ∧ flagsField c = flagsOf i := by
  rw [decode]
  split
  · next hrsv => rw [decodeOpcode_eq_ok, and_iff_right hrsv]
  · next hrsv => exact iff_of_false nofun fun ⟨hzero, _⟩ => hrsv hzero

/-- Settles O1: both sides say that the fields of the word are those of the instruction. -/
theorem decodeAndEncodeAgree : Obligations.DecodeAndEncodeAgree := fun _ _ =>
  decode_eq_ok.trans encode_eq_iff.symm

theorem decode_encode (i : Instr) : decode (encode i) = .ok i := (decodeAndEncodeAgree _ i).mpr rfl

/-- Settles O4: each accepted word is the encoding of its command. -/
theorem sampleWordsDecode : Obligations.SampleWordsDecode :=
  ⟨decode_encode .init, decode_encode (.pad false), decode_encode (.pad true), decode_encode .expd, decode_encode .cmpr,
    decode_encode .hashx, decode_encode .mkvfy, decode_encode .lefg, rfl, rfl, rfl⟩

/-! ### Valid words -/

/-- The commands in the order of the opcode map, PAD with L = 0 (R152). -/
def opcodeMap : List Instr :=
  [.init, .ldst, .stst, .hexst, .pad false, .padt, .expd, .blkb, .rstep, .blke, .cmpr, .hash, .hashx, .staf,
   .mkclr, .mkleaf, .mkbld, .mkprv, .mkprh, .mkvfy, .lefg]

theorem listedOpcodes_eq_map : listedOpcodes = opcodeMap.map fun i => (opcodeOf i).toNat := rfl

theorem flagsOf_of_mem_opcodeMap : ∀ i ∈ opcodeMap, flagsOf i = 0 := by decide

theorem exists_opcodeOf_of_listed {c : Word} (h : opcodeListed c = true) :
    ∃ i, opcField c = opcodeOf i ∧ flagsOf i = 0 := by
  have hmem : c.toNat % 256 ∈ listedOpcodes := by simpa [opcodeListed] using h
  rw [listedOpcodes_eq_map] at hmem
  obtain ⟨i, hi, hop⟩ := List.mem_map.mp hmem
  exact ⟨i, BitVec.eq_of_toNat_eq ((opcField_toNat c).trans hop.symm), flagsOf_of_mem_opcodeMap i hi⟩

/-- R151 (c), for PAD and for every other opcode. -/
theorem flagsDefined_iff (c : Word) : flagsDefined c = true ↔
    if opcField c = 0x10 then (flagsField c).toNat / 2 = 0 else flagsField c = 0 := by
  have hopc : opcField c = 0x10 ↔ c.toNat % 256 = 0x10 := by
    rw [← BitVec.toNat_inj, opcField_toNat]; rfl
  have hflags : flagsField c = 0 ↔ c.toNat / 256 % 256 = 0 := by
    rw [← toNat_eq_zero_iff, flagsField_toNat]
  simp only [flagsDefined, hopc, hflags, flagsField_toNat]
  split <;> rw [beq_iff_eq] <;> omega

theorem exists_decode_of_validWord {c : Word} (h : validWord c = true) : ∃ i, decode c = .ok i := by
  simp only [validWord, Bool.and_eq_true, flagsDefined_iff] at h
  obtain ⟨⟨hlisted, hrsv⟩, hflags⟩ := h
  have hrsv : rsvField c = 0 := toNat_eq_zero_iff.mp ((rsvField_toNat c).trans (beq_iff_eq.mp hrsv))
  simp only [decode_eq_ok, hrsv, true_and]
  split at hflags
  · next hpad => exact ⟨.pad ((flagsField c).getLsbD 0), hpad, flags_eq_flagsOf_pad hflags⟩
  · obtain ⟨i, hop, hi⟩ := exists_opcodeOf_of_listed hlisted
    exact ⟨i, hop, hflags.trans hi.symm⟩

theorem validWord_encode (i : Instr) : validWord (encode i) = true := by
  cases i with
  | pad l => cases l <;> decide
  | _ => decide

/-- The decoder accepts exactly the valid words of R151. -/
theorem exists_decode_iff_validWord (c : Word) : (∃ i, decode c = .ok i) ↔ validWord c = true := by
  refine ⟨fun ⟨i, hi⟩ => ?_, exists_decode_of_validWord⟩
  rw [← (decodeAndEncodeAgree c i).mp hi]
  exact validWord_encode i

end Sys2Proof

namespace Sys2Proof.Machine

/-! ### What a command word does to the state -/

theorem runCommand_of_invalid {c : Word} (h : validWord c = false) (s : State) :
    runCommand c s = .next (s.raise .illegalCmd) := by
  cases hc : decode c with
  | ok i => exact absurd ((exists_decode_iff_validWord c).mp ⟨i, hc⟩) (by simp [h])
  | error e => simp only [runCommand, hc]

/-- Settles O2: the decoder rejects every invalid word, and the step then takes the CMD write and raises the error. -/
theorem invalidWordsAreIllegal : Obligations.InvalidWordsAreIllegal := by
  refine ⟨exists_decode_iff_validWord, fun s c rest hq hinvalid => ?_⟩
  simp only [step, hq, hostStep_writeCmd, runCommand_of_invalid hinvalid, State.raise]

/-- Settles O7: each conjunct is one field of the registers that every command keeps. -/
theorem commandsKeepOperands : Obligations.CommandsKeepOperands := by
  intro i s t h
  simpa [State.keptRegs] using exec_keptRegs h

end Sys2Proof.Machine
end

section
/-! ### Proofs of 40_primitives.md: the datapath functions on integers and bit by bit -/

namespace Sys2Proof.Machine

/-! ### Rotation -/

/-- The bits of `x` that stay below bit `w` when it moves up by `r` are its `w - r` low ones. -/
theorem mul_two_pow_mod_two_pow (x : Nat) {r w : Nat} (hr : r ≤ w) :
    x * 2 ^ r % 2 ^ w = x % 2 ^ (w - r) * 2 ^ r := by
  rw [← Nat.pow_sub_mul_pow 2 hr, Nat.mul_mod_mul_right]

/-- The two parts of a rotation do not overlap, so that joining them is adding them. -/
theorem rotl_toNat (x : Word) (n : Nat) :
    (rotl x n).toNat = x.toNat * 2 ^ (n % 32) % 2 ^ 32 + x.toNat / 2 ^ (32 - n % 32) := by
  have hr : n % 32 ≤ 32 := (Nat.mod_lt n (by decide)).le
  have hlow : x.toNat / 2 ^ (32 - n % 32) < 2 ^ (n % 32) :=
    Nat.div_lt_of_lt_mul (by rw [Nat.pow_sub_mul_pow 2 hr]; exact x.isLt)
  rw [rotl, BitVec.toNat_rotateLeft, Nat.shiftLeft_eq, Nat.shiftRight_eq_div_pow, mul_two_pow_mod_two_pow _ hr,
    ← Nat.shiftLeft_eq, Nat.shiftLeft_add_eq_or_of_lt hlow]

/-- Settles O47: a multiple of 32 is the case in which nothing moves and the floor is 0. -/
theorem rotationFormula : Obligations.RotationFormula := by
  intro x n
  rw [rotl_toNat]
  split
  · next hzero => rw [hzero, pow_zero, mul_one, Nat.mod_eq_of_lt x.isLt, Nat.div_eq_of_lt x.isLt, add_zero]
  · rfl

/-! ### Packing -/

theorem be32_toNat (a b c d : Byte) :
    (be32 a b c d).toNat = a.toNat * 2 ^ 24 + b.toNat * 2 ^ 16 + c.toNat * 2 ^ 8 + d.toNat := by
  simp only [be32, toNat_append_eq]
  omega

theorem unbe32_toNat (x : Word) : (unbe32 x).map BitVec.toNat =
    [x.toNat / 2 ^ 24, x.toNat / 2 ^ 16 % 256, x.toNat / 2 ^ 8 % 256, x.toNat % 256] := by
  have hx := x.isLt
  have htop : x.toNat / 2 ^ 24 < 256 := by omega
  simpa [unbe32, Nat.shiftRight_eq_div_pow] using htop

/-- Packing adds up the digits that unpacking takes (R200, R201). -/
theorem wordAt_unbe32 (x : Word) : wordAt (unbe32 x) 0 = x := by
  have hpack : wordAt (unbe32 x) 0 =
      be32 (x.extractLsb' 24 8) (x.extractLsb' 16 8) (x.extractLsb' 8 8) (x.extractLsb' 0 8) := rfl
  refine BitVec.eq_of_toNat_eq ?_
  simp only [hpack, be32_toNat, BitVec.extractLsb'_toNat, Nat.shiftRight_eq_div_pow]
  omega

/-- Byte k of be64(n) is the digit of weight 256^(7-k) (R202). -/
theorem be64_getElem_toNat (n : Nat) {k : Nat} (hk : k < (be64 n).length) :
    (be64 n)[k].toNat = n / 2 ^ (8 * (7 - k)) % 256 := by
  simp [be64]

/-- Horner's rule: the first `k` bytes of be64(n) are the value of n without its `8 - k` low bytes. -/
theorem foldl_take_be64 {n : Nat} (hn : n < 2 ^ 64) {k : Nat} (hk : k ≤ 8) :
    ((be64 n).take k).foldl (fun acc b => acc * 256 + b.toNat) 0 = n / 2 ^ (8 * (8 - k)) := by
  induction k with
  | zero => exact (Nat.div_eq_of_lt hn).symm
  | succ k ih =>
    have hlt : k < (be64 n).length := by rw [be64_length]; exact hk
    have hshift : n / 2 ^ (8 * (8 - k)) = n / 2 ^ (8 * (7 - k)) / 256 := by
      rw [Nat.div_div_eq_div_mul, show 8 * (8 - k) = 8 * (7 - k) + 8 by omega, pow_add]; rfl
    rw [List.take_succ_eq_append_getElem hlt, List.foldl_append, ih (by omega), List.foldl_cons, List.foldl_nil,
      be64_getElem_toNat, hshift, Nat.div_add_mod', show 8 - (k + 1) = 7 - k by omega]

theorem foldl_be64 {n : Nat} (hn : n < 2 ^ 64) : (be64 n).foldl (fun acc b => acc * 256 + b.toNat) 0 = n :=
  (foldl_take_be64 hn (le_refl 8)).trans (Nat.div_one n)

/-- Settles O48: packing adds big-endian digits, and unpacking gives them. -/
theorem packingFormulas : Obligations.PackingFormulas :=
  ⟨be32_toNat, unbe32_toNat, wordAt_unbe32, fun n hn => ⟨be64_length n, foldl_be64 hn⟩⟩

/-! ### The boolean functions -/

theorem ff_of_lt (x y z : Word) {j : Nat} (h : j < 16) : ff x y z j = x ^^^ y ^^^ z := if_pos h

theorem gg_of_lt (x y z : Word) {j : Nat} (h : j < 16) : gg x y z j = x ^^^ y ^^^ z := if_pos h

theorem ff_of_le (x y z : Word) {j : Nat} (h : 16 ≤ j) : ff x y z j = x &&& y ||| x &&& z ||| y &&& z :=
  if_neg (Nat.not_lt.mpr h)

theorem gg_of_le (x y z : Word) {j : Nat} (h : 16 ≤ j) : gg x y z j = x &&& y ||| ~~~x &&& z :=
  if_neg (Nat.not_lt.mpr h)

/-- The OR of the three pairwise ANDs is the majority (R207). -/
theorem or_and_pairs_eq_majority (a b c : Bool) :
    (a && b || a && c || b && c) = decide (2 ≤ a.toNat + b.toNat + c.toNat) := by
  revert a b c; decide

/-- GG chooses between y and z by x (R208). -/
theorem and_or_not_and_eq_ite (a b c : Bool) : (a && b || !a && c) = if a = true then b else c := by
  cases a <;> simp

/-- Settles O49: bit k of FF and GG is the same expression on the bits k of x, y and z. -/
theorem booleanFunctions : Obligations.BooleanFunctions := by
  intro x y z j k hk
  refine ⟨fun hj => ⟨ff_of_lt x y z hj, gg_of_lt x y z hj⟩, fun hj => ⟨?_, ?_⟩⟩
  · rw [ff_of_le x y z hj, ← or_and_pairs_eq_majority]
    simp only [BitVec.getLsbD_or, BitVec.getLsbD_and]
  · rw [gg_of_le x y z hj, ← and_or_not_and_eq_ite]
    simp only [BitVec.getLsbD_or, BitVec.getLsbD_and, BitVec.getLsbD_not, hk, decide_true, Bool.true_and]

/-! ### The round constants -/

/-- The listed table is the table of `tr` (R210). -/
theorem trRom_eq_map_tr : trRom = (List.range 64).map tr := by decide

/-- Settles O50: entry j of the table of `tr` is `tr j`. -/
theorem roundConstantRom : Obligations.RoundConstantRom := by
  refine ⟨rfl, fun j hj => ⟨?_, rfl⟩⟩
  rw [trRom_eq_map_tr, List.getElem?_map, List.getElem?_range hj, Option.map_some]

end Sys2Proof.Machine
end

section
/-! ### Proofs of 41_padding.md: the size of a padded message, and the commands PAD and PADT -/

namespace Sys2Proof.Machine

/-! ### The padded length -/

theorem padLen_mod (n : Nat) : padLen n % 64 = 0 := Nat.mul_mod_right ..

/-- P(n) is less than one block above the least length that fits (R250). -/
theorem padLen_le_add (n : Nat) : padLen n ≤ n + 72 := by unfold padLen; omega

/-- Settles O51: P(n) is the multiple of 64 in [n + 9, n + 72]. -/
theorem paddingProperties : Obligations.PaddingProperties := by
  refine ⟨fun n => ?_, fun m lf => ⟨padWith_length m lf, List.take_left, rfl⟩⟩
  have hmod := padLen_mod n
  have hlow := add_nine_le_padLen n
  have hhigh := padLen_le_add n
  omega

/-! ### How a command ends, by its first failing check -/

/-- A command whose first failing check has the code `e` ends in that error, with nothing else changed (R503). -/
theorem State.next_perform_of_some {s : State} {cs : List (Bool × Code)} {e : Code} (h : firstError cs = some e)
    (f : State → State) : .next (s.perform cs f) = failsWith s e :=
  congrArg Host.Outcome.next (State.perform_of_some h f)

/-- A command whose checks pass has its effect and succeeds (R500). -/
theorem State.next_perform_of_none {s : State} {cs : List (Bool × Code)} (h : firstError cs = none)
    (f : State → State) : (.next (s.perform cs f) : Host.Outcome State Fault Refusal) = .next (f s).succeed :=
  congrArg Host.Outcome.next (State.perform_of_none h f)

/-! ### The checks of PAD and PADT -/

/-- `check Region(a, n)` fails with ADDR_RANGE when the region is not in MEM, and leaves the rest to decide otherwise. -/
theorem State.firstError_checkRegion (s : State) (a n : Nat) (cs : List (Bool × Code)) :
    firstError (s.checkRegion a n :: cs) = if InMem s a n then firstError cs else some .addrRange := by
  rw [State.checkRegion_eq, firstError_cons]
  by_cases h : InMem s a n
  · rw [if_pos h, decide_eq_true h]; rfl
  · rw [if_neg h, decide_eq_false h]; rfl

/-- The length field of 8 lf bits overflows 64 bits from lf = 2^61 on (R253). -/
theorem firstError_lengthOverflows (lf : Nat) (cs : List (Bool × Code)) :
    firstError ((lengthOverflows lf, .lengthOverflow) :: cs) =
      if 2 ^ 61 ≤ lf then some .lengthOverflow else firstError cs := by
  have hbound : lengthOverflows lf = true ↔ 2 ^ 61 ≤ lf := by rw [lengthOverflows, decide_eq_true_iff]; omega
  rw [firstError_cons]
  exact if_congr hbound rfl rfl

theorem firstError_padChecks (l : Bool) (s : State) : firstError (padChecks l s) =
    if 2 ^ 61 ≤ s.padField l then some .lengthOverflow
    else if InMem s s.srcAddr s.lenVal ∧ InMem s s.dstAddr (padLen s.lenVal) then none else some .addrRange := by
  rw [padChecks, firstError_lengthOverflows, s.firstError_checkRegion, s.firstError_checkRegion, firstError_nil,
    ite_and]

theorem firstError_padtChecks (s : State) : firstError (padtChecks s) =
    if 2 ^ 61 ≤ s.auxVal then some .lengthOverflow
    else if InMem s s.dstAddr (padLen s.auxVal - s.auxVal) then none else some .addrRange := by
  rw [padtChecks, firstError_lengthOverflows, s.firstError_checkRegion, firstError_nil]

/-! ### The commands -/

/-- Settles O30: the checks decide between the errors and one write of the padded message. -/
theorem padRule : Obligations.PadRule := by
  refine ⟨decode_encode (.pad false), decode_encode (.pad true), fun l s lf hlf => ?_⟩
  obtain rfl : lf = s.padField l := hlf
  have hchecks := firstError_padChecks l s
  refine ⟨fun hover => ?_, fun hfits hregion => ?_, fun hfits hsrc hdst => ?_⟩
  · exact State.next_perform_of_some (hchecks.trans (if_pos hover)) _
  · have hfail := hchecks.trans ((if_neg hfits.not_ge).trans (if_neg (not_and_or.mpr hregion)))
    exact State.next_perform_of_some hfail _
  · have hpass := hchecks.trans ((if_neg hfits.not_ge).trans (if_pos ⟨hsrc, hdst⟩))
    exact ⟨_, State.next_perform_of_none hpass _, rfl, s.mem.stores_write ..⟩

/-- Settles O31: the checks decide between the errors and one write of the padding tail. -/
theorem padtRule : Obligations.PadtRule := by
  refine ⟨decode_encode .padt, fun s hover => ?_, fun s hfits hdst => ?_, fun s hfits hdst => ?_⟩
  · exact State.next_perform_of_some ((firstError_padtChecks s).trans (if_pos hover)) _
  · have hfail := (firstError_padtChecks s).trans ((if_neg hfits.not_ge).trans (if_neg hdst))
    exact State.next_perform_of_some hfail _
  · have hpass := (firstError_padtChecks s).trans ((if_neg hfits.not_ge).trans (if_pos hdst))
    exact ⟨_, State.next_perform_of_none hpass _, rfl, s.mem.stores_write ..⟩

end Sys2Proof.Machine
end

section
/-! ### Proofs of 42_schedule.md: the schedule recurrence, the four strategies and EXPD -/

namespace Sys2Proof.Machine

/-! ### The expansion words are the one solution of the recurrence -/

/-- The list `ws` holds the expansion words of the block `b`: its sixteen words, then those of the recurrence (R280). -/
structure IsExpansion (b : List Byte) (ws : List Word) : Prop where
  length_eq : ws.length = 68
  block : ∀ j < 16, ws.getD j 0 = wordAt b j
  recurrence : ∀ j, 16 ≤ j → j < 68 → ws.getD j 0 = nextWord ws j

/-- The recurrence reads no word above W[j-3]. -/
theorem nextWord_congr {ws ws' : List Word} {j : Nat} (h : ∀ i ≤ j - 3, ws.getD i 0 = ws'.getD i 0) :
    nextWord ws j = nextWord ws' j := by
  rw [nextWord, nextWord, h (j - 16) (by omega), h (j - 9) (by omega), h (j - 3) le_rfl, h (j - 13) (by omega),
    h (j - 6) (by omega)]

theorem nextWord_append {ws : List Word} (xs : List Word) {j : Nat} (h : j - 3 < ws.length) :
    nextWord (ws ++ xs) j = nextWord ws j :=
  nextWord_congr fun i hi => List.getD_append _ _ _ i (by omega)

/-- W[0..15] fix every later word. -/
theorem IsExpansion.unique {b : List Byte} {ws ws' : List Word} (h : IsExpansion b ws) (h' : IsExpansion b ws') :
    ws = ws' := by
  have hword : ∀ j < 68, ws.getD j 0 = ws'.getD j 0 := by
    intro j
    induction j using Nat.strong_induction_on with
    | _ j ih =>
      intro hj
      by_cases hblock : j < 16
      · rw [h.block j hblock, h'.block j hblock]
      · rw [h.recurrence j (by omega) hj, h'.recurrence j (by omega) hj]
        exact nextWord_congr fun i hi => ih i (by omega) (by omega)
  refine List.ext_getElem (h.length_eq.trans h'.length_eq.symm) fun j hj hj' => ?_
  rw [← List.getD_eq_getElem ws 0 hj, ← List.getD_eq_getElem ws' 0 hj']
  exact hword j (h.length_eq ▸ hj)

/-! ### Growing a list of words -/

/-- Growing changes no word that is there already. -/
theorem growWords_getD (n : Nat) : ∀ {ws : List Word} {j : Nat}, j < ws.length →
    (growWords n ws).getD j 0 = ws.getD j 0 := by
  induction n with
  | zero => intros; rfl
  | succ n ih =>
    intro ws j hj
    rw [growWords, ih (hj.trans_le (List.sublist_append_left ..).length_le), List.getD_append _ _ _ j hj]

theorem nextWord_growWords (n : Nat) {ws : List Word} {j : Nat} (hj : j - 3 < ws.length) :
    nextWord (growWords n ws) j = nextWord ws j :=
  nextWord_congr fun _ hi => growWords_getD n (by omega)

theorem growWords_add (m n : Nat) : ∀ ws : List Word, growWords (m + n) ws = growWords n (growWords m ws) := by
  induction m with
  | zero => intro ws; rw [Nat.zero_add]; rfl
  | succ m ih => intro ws; rw [Nat.succ_add]; exact ih _

/-- Each grown word is that of the recurrence, also on the final list. -/
theorem growWords_recurrence (n : Nat) : ∀ {ws : List Word} {j : Nat},
    ws ≠ [] → ws.length ≤ j → j < ws.length + n →
    (growWords n ws).getD j 0 = nextWord (growWords n ws) j := by
  induction n with
  | zero => intros; omega
  | succ n ih =>
    intro ws j hne hlow hhigh
    have hpos := List.length_pos_iff.mpr hne
    have hlen : (ws ++ [nextWord ws ws.length]).length = ws.length + 1 := List.length_append
    rw [growWords]
    rcases hlow.eq_or_lt with rfl | hlow
    · rw [growWords_getD n (by omega), nextWord_growWords n (by omega), nextWord_append _ (by omega)]
      simp
    · exact ih (by simp) (by omega) (by omega)

theorem blockWords_length (b : List Byte) : (blockWords b).length = 16 := rfl

theorem blockWords_ne_nil (b : List Byte) : blockWords b ≠ [] := List.cons_ne_nil _ _

theorem blockWords_getD (b : List Byte) {j : Nat} (hj : j < 16) : (blockWords b).getD j 0 = wordAt b j := by
  simp [blockWords, hj]

theorem expandWords_getD_of_lt (b : List Byte) {j : Nat} (hj : j < 16) :
    (expandWords b).getD j 0 = (blockWords b).getD j 0 := growWords_getD 52 hj

theorem isExpansion_expandWords (b : List Byte) : IsExpansion b (expandWords b) where
  length_eq := expandWords_length b
  block j hj := by rw [expandWords_getD_of_lt b hj, blockWords_getD b hj]
  recurrence _ hlow hhigh := growWords_recurrence 52 (blockWords_ne_nil b) hlow hhigh

/-! ### Expand and the mixing words, word by word -/

theorem expand_toList (b : List Byte) : (expand b).toList = expandWords b := rfl

theorem expand_getElem! (b : List Byte) {j : Nat} (hj : j < 68) : (expand b)[j]! = (expandWords b).getD j 0 := by
  have hj' : j < (expandWords b).length := by rwa [expandWords_length]
  rw [getElem!_pos (expand b) j hj, List.getD_eq_getElem _ 0 hj', expand, Vector.getElem_mk, List.getElem_toArray]

theorem mixing_getElem (w : Vector Word 68) {j : Nat} (hj : j < 64) : (mixing w)[j] = w[j] ^^^ w[j + 4] :=
  Vector.getElem_ofFn hj

/-- Settles O54: the words of `expandWords`, read through the arrays W and W1. -/
theorem scheduleRecurrence : Obligations.ScheduleRecurrence := by
  intro b
  have hexp := isExpansion_expandWords b
  refine ⟨fun j hj => ?_, fun j hlow hhigh => ?_, fun j hj => ?_⟩
  · rw [expand_getElem! b (by omega), hexp.block j hj]
  · simp (disch := omega) only [expand_getElem!]
    exact hexp.recurrence j hlow hhigh
  · rw [getElem!_pos (mixing (expand b)) j hj, getElem!_pos (expand b) j (by omega),
      getElem!_pos (expand b) (j + 4) (by omega), mixing_getElem _ hj]

/-! ### The strategies -/

/-- W1[j] from a list of expansion words (R281). -/
def mixWord (ws : List Word) (j : Nat) : Word := ws.getD j 0 ^^^ ws.getD (j + 4) 0

theorem mixWords_eq_map (ws : List Word) : mixWords ws = (List.range 64).map (mixWord ws) := rfl

theorem mixWords_expandWords (b : List Byte) : mixWords (expandWords b) = (mixing (expand b)).toList := by
  refine List.ext_getElem (by simp [mixWords]) fun j hj _ => ?_
  have hj : j < 64 := by simpa [mixWords] using hj
  rw [Vector.getElem_toList, mixing_getElem _ hj, ← getElem!_pos (expand b), ← getElem!_pos (expand b),
    expand_getElem! b (by omega), expand_getElem! b (by omega)]
  simp only [mixWords, List.getElem_map, List.getElem_range]

/-- Direct-array strategy (R283). -/
theorem directSchedule_eq (b : List Byte) : directSchedule b = ((expand b).toList, (mixing (expand b)).toList) := by
  rw [directSchedule, mixWords_expandWords, expand_toList]

/-! #### Ring buffer -/

/-- The slots hold the last sixteen words of `ws`, each at its index modulo 16 (R284). -/
def RingHolds (slots ws : List Word) : Prop :=
  slots.length = 16 ∧ ∀ i < ws.length, ws.length ≤ i + 16 → slots.getD (i % 16) 0 = ws.getD i 0

theorem ringHolds_blockWords (b : List Byte) : RingHolds (blockWords b) (blockWords b) := by
  refine ⟨rfl, fun i hi _ => ?_⟩
  rw [Nat.mod_eq_of_lt (by rwa [blockWords_length] at hi)]

theorem RingHolds.ringWord_eq {slots ws : List Word} (h : RingHolds slots ws) (hlen : 16 ≤ ws.length) :
    ringWord slots ws.length = nextWord ws ws.length := by
  obtain ⟨-, hslot⟩ := h
  rw [ringWord, nextWord, hslot (ws.length - 16) (by omega) (by omega), hslot (ws.length - 9) (by omega) (by omega),
    hslot (ws.length - 3) (by omega) (by omega), hslot (ws.length - 13) (by omega) (by omega),
    hslot (ws.length - 6) (by omega) (by omega)]

/-- The word stored takes the slot of the one word that falls out of the sixteen. -/
theorem RingHolds.store {slots ws : List Word} (h : RingHolds slots ws) (x : Word) :
    RingHolds (slots.set (ws.length % 16) x) (ws ++ [x]) := by
  obtain ⟨hsize, hslot⟩ := h
  refine ⟨(List.length_set ..).trans hsize, fun i hi hnear => ?_⟩
  rw [List.length_append, List.length_singleton] at hi hnear
  have hbound : i % 16 < slots.length := by omega
  rcases (Nat.lt_succ_iff.mp hi).eq_or_lt with rfl | hi
  · simp [List.getD, hbound]
  · have hother : ws.length % 16 ≠ i % 16 := by omega
    rw [List.getD_append _ _ _ i hi, ← hslot i hi (by omega), List.getD, List.getElem?_set_ne hother, List.getD]

/-- W1[j-4] is the word of slot j-4 against the word just computed. -/
theorem RingHolds.mixWord_eq {slots ws : List Word} (h : RingHolds slots ws) (hlen : 16 ≤ ws.length) (n : Nat) :
    slots.getD ((ws.length - 4) % 16) 0 ^^^ nextWord ws ws.length = mixWord (growWords (n + 1) ws) (ws.length - 4) := by
  obtain ⟨-, hslot⟩ := h
  have hnew : (growWords (n + 1) ws).getD ws.length 0 = nextWord ws ws.length := by
    rw [growWords_recurrence (n + 1) (List.ne_nil_of_length_pos (by omega)) le_rfl (by omega),
      nextWord_growWords _ (by omega)]
  rw [mixWord, Nat.sub_add_cancel (by omega), hnew, growWords_getD _ (by omega), hslot _ (by omega) (by omega)]

/-- The run of the ring buffer computes the words that growing appends, and with each the mixing word four below it. -/
theorem RingHolds.ringRun_eq (n : Nat) : ∀ {slots ws : List Word}, RingHolds slots ws → 16 ≤ ws.length →
    ws ++ (ringRun n ws.length slots).map Prod.fst = growWords n ws ∧
      (ringRun n ws.length slots).map Prod.snd =
        (List.range' (ws.length - 4) n).map (mixWord (growWords n ws)) := by
  induction n with
  | zero => exact fun _ _ => ⟨List.append_nil _, rfl⟩
  | succ n ih =>
    intro slots ws h hlen
    have hlen' : (ws ++ [nextWord ws ws.length]).length = ws.length + 1 := List.length_append
    obtain ⟨hwords, hmixing⟩ := ih (h.store (nextWord ws ws.length)) (by omega)
    rw [hlen'] at hwords hmixing
    rw [ringRun, h.ringWord_eq hlen, List.map_cons, List.map_cons, h.mixWord_eq hlen n, List.range'_succ, List.map_cons,
      hmixing, Nat.sub_add_comm (by omega)]
    exact ⟨(List.append_cons ..).trans hwords, rfl⟩

/-- Ring-buffer strategy (R284): W1[0..11] come from the starting slots and the rest from the run. -/
theorem ringSchedule_eq (b : List Byte) : ringSchedule b = directSchedule b := by
  obtain ⟨hwords, hmixing⟩ := (ringHolds_blockWords b).ringRun_eq 52 le_rfl
  have hstart : ((List.range 12).map fun j => (blockWords b).getD j 0 ^^^ (blockWords b).getD (j + 4) 0) =
      (List.range 12).map (mixWord (expandWords b)) := by
    refine List.map_congr_left fun j hj => ?_
    have hj := List.mem_range.mp hj
    rw [mixWord, expandWords_getD_of_lt b (by omega), expandWords_getD_of_lt b (by omega)]
  have hrange : List.range 64 = List.range 12 ++ List.range' 12 52 := rfl
  rw [directSchedule, mixWords_eq_map, hrange, List.map_append, ← hstart]
  exact Prod.ext hwords (congrArg (_ ++ ·) hmixing)

/-! #### Unrolled and vector-parallel -/

/-- Each line of the straight line is the recurrence on five lines above it: once the lines have names, both sides are
the same words. -/
theorem unrolledWords_recurrence (b : List Byte) :
    (unrolledWords b).drop 16 = (List.range 52).map fun i => nextWord (unrolledWords b) (i + 16) := by
  unfold unrolledWords
  extract_lets
  rfl

theorem isExpansion_unrolledWords (b : List Byte) : IsExpansion b (unrolledWords b) where
  length_eq := rfl
  block j hj := by
    have htake : (unrolledWords b).take 16 = blockWords b := rfl
    rw [← blockWords_getD b hj, ← htake, List.getD, List.getD, List.getElem?_take_of_lt hj]
  recurrence j hlow hhigh := by
    obtain ⟨i, rfl⟩ := Nat.exists_eq_add_of_le' hlow
    have hi : i < 52 := by omega
    have hdrop := congrArg (·[i]?) (unrolledWords_recurrence b)
    simp only [List.getElem?_drop, List.getElem?_map, List.getElem?_range hi, Option.map_some] at hdrop
    rw [List.getD, Nat.add_comm i, hdrop, Option.getD_some, Nat.add_comm i]

/-- Unrolled strategy (R285): the straight line of words solves the recurrence. -/
theorem unrolledSchedule_eq (b : List Byte) : unrolledSchedule b = directSchedule b := by
  rw [unrolledSchedule, directSchedule, (isExpansion_unrolledWords b).unique (isExpansion_expandWords b)]

/-- None of the three words computed at once needs another of them (R285). -/
theorem vectorStep_eq_growWords {ws : List Word} (h : ws ≠ []) : vectorStep ws = growWords 3 ws := by
  have hpos := List.length_pos_iff.mpr h
  have hsecond := nextWord_append [nextWord ws ws.length] (show ws.length + 1 - 3 < ws.length by omega)
  have hthird := nextWord_append [nextWord ws ws.length, nextWord ws (ws.length + 1)]
    (show ws.length + 2 - 3 < ws.length by omega)
  simp [vectorStep, growWords, hsecond, hthird]

theorem vectorGrow_eq_growWords (n : Nat) : ∀ {ws : List Word}, ws ≠ [] → vectorGrow n ws = growWords (3 * n) ws := by
  induction n with
  | zero => intros; rfl
  | succ n ih =>
    intro ws h
    have hne : vectorStep ws ≠ [] := List.append_ne_nil_of_left_ne_nil h _
    rw [vectorGrow, ih hne, vectorStep_eq_growWords h, ← growWords_add, Nat.mul_succ, Nat.add_comm 3]

/-- Vector-parallel strategy (R285): 17 steps of three words and one word more grow 52 words. -/
theorem vectorSchedule_eq (b : List Byte) : vectorSchedule b = directSchedule b := by
  rw [vectorSchedule, vectorGrow_eq_growWords 17 (blockWords_ne_nil b), ← growWords_add]
  rfl

/-- Settles O13: each strategy gives what the direct-array one gives. -/
theorem strategiesBitIdentical : Obligations.StrategiesBitIdentical := by
  intro strat b
  rw [← directSchedule_eq]
  match strat with
  | 0 => rfl
  | 1 => exact ringSchedule_eq b
  | 2 => exact unrolledSchedule_eq b
  | 3 => exact vectorSchedule_eq b

/-! ### EXPD -/

theorem firstError_expdChecks (s : State) :
    firstError (expdChecks s) = if InMem s s.srcAddr 64 then none else some .addrRange := by
  rw [expdChecks, s.firstError_checkRegion, firstError_nil]

/-- EXPD on a block inside MEM (R287); the reads of the block are 64 draws. -/
theorem exec_expd_of_inMem {s : State} (h : InMem s s.srcAddr 64) :
    exec .expd s = .next { s with
      w := expand (s.readBytes s.srcAddr 64), w1 := mixing (expand (s.readBytes s.srcAddr 64)),
      cfact := false, rnd := 0, code := .ok, draws := s.draws + 64 } := by
  have hdone : exec .expd s = _ := State.next_perform_of_none ((firstError_expdChecks s).trans (if_pos h)) _
  simpa only [State.succeed, State.abandon, State.setSchedule, State.draw] using hdone

/-- Settles O32: the one check decides between the error and the schedule of the block at SRC. -/
theorem expdRule : Obligations.ExpdRule :=
  ⟨decode_encode .expd, fun _ hsrc => ⟨_, exec_expd_of_inMem hsrc, rfl, rfl, fun j => mixing_getElem _ j.isLt⟩,
    fun s hsrc => State.next_perform_of_some ((firstError_expdChecks s).trans (if_neg hsrc)) _⟩

end Sys2Proof.Machine
end

section
/-! ### Proofs of 43_compression.md: the commands on a round sequence, Fold, and a round sequence as CF -/

namespace Sys2Proof

theorem Words8.get_xor (x y : Words8) (i : Fin 8) : (x.xor y).get i = x.get i ^^^ y.get i := by
  fin_cases i <;> rfl

end Sys2Proof

namespace Sys2Proof.Machine

/-! ### The checks -/

theorem firstError_decide (p : Prop) [Decidable p] (e : Code) (cs : List (Bool × Code)) :
    firstError ((decide p, e) :: cs) = if p then some e else firstError cs := by
  simp only [firstError_cons, decide_eq_true_eq]

theorem firstError_blkbChecks (s : State) :
    firstError (blkbChecks s) = if InMem s s.srcAddr 64 then none else some .addrRange := by
  rw [blkbChecks, s.firstError_checkRegion, firstError_nil]

/-- A check of CFACT together with a check of RND (R316, R317). -/
theorem firstError_roundSeq (cfact : Bool) (p : Prop) [Decidable p] :
    firstError [(!cfact || decide p, .roundSeq)] = if cfact = false ∨ p then some .roundSeq else none := by
  have hfails : (!cfact || decide p) = decide (cfact = false ∨ p) := by cases cfact <;> simp
  rw [hfails, firstError_decide, firstError_nil]

theorem firstError_rstepChecks (s : State) : firstError (rstepChecks s) =
    if s.cfact = false ∨ 64 ≤ s.rnd.toNat then some .roundSeq else none :=
  firstError_roundSeq ..

theorem firstError_blkeChecks (s : State) : firstError (blkeChecks s) =
    if s.cfact = false ∨ s.rnd.toNat ≠ 64 then some .roundSeq else none :=
  firstError_roundSeq ..

theorem firstError_cmprChecks (s : State) : firstError (cmprChecks s) =
    if s.lenVal = 0 then some .emptyInput
    else if s.lenVal % 64 ≠ 0 then some .blockAlign
    else if InMem s s.srcAddr s.lenVal then none else some .addrRange := by
  rw [cmprChecks, firstError_decide, firstError_decide, s.firstError_checkRegion, firstError_nil]

/-! ### BLKB, RSTEP, BLKE and CMPR -/

/-- BLKB on a block inside MEM (R315); the reads of the block are 64 draws. -/
theorem exec_blkb_of_inMem {s : State} (h : InMem s s.srcAddr 64) :
    exec .blkb s = .next { s with
      w := expand (s.readBytes s.srcAddr 64), w1 := mixing (expand (s.readBytes s.srcAddr 64)),
      wk := s.v, cfact := true, rnd := 0, code := .ok, draws := s.draws + 64 } := by
  have hdone : exec .blkb s = _ := State.next_perform_of_none ((firstError_blkbChecks s).trans (if_pos h)) _
  simpa only [State.succeed, State.setCfact, State.setRnd, State.setWk, State.setSchedule, State.draw] using hdone

/-- Settles O33: the one check decides between the error and a sequence opened on the block at SRC. -/
theorem blkbRule : Obligations.BlkbRule :=
  ⟨decode_encode .blkb, fun _ hsrc => ⟨_, exec_blkb_of_inMem hsrc, rfl, rfl, fun j => mixing_getElem _ j.isLt⟩,
    fun s hsrc => State.next_perform_of_some ((firstError_blkbChecks s).trans (if_neg hsrc)) _⟩

/-- RSTEP in an open sequence with a round to come (R316). -/
theorem exec_rstep_of_open {s : State} (hopen : s.cfact = true) (hrnd : s.rnd.toNat < 64) :
    exec .rstep s = .next { s with
      wk := roundFn s.rnd.toNat s.wk s.w s.w1, rnd := BitVec.ofNat 7 (s.rnd.toNat + 1), code := .ok } := by
  have hpass : ¬ (s.cfact = false ∨ 64 ≤ s.rnd.toNat) := by simp [hopen, hrnd]
  have hdone : exec .rstep s = _ := State.next_perform_of_none ((firstError_rstepChecks s).trans (if_neg hpass)) _
  have hnext : s.rnd + 1 = BitVec.ofNat 7 (s.rnd.toNat + 1) := by apply BitVec.eq_of_toNat_eq; simp
  simpa only [State.succeed, State.setRnd, State.setWk, hnext] using hdone

/-- Settles O34: the one check decides between the error and one round. -/
theorem rstepRule : Obligations.RstepRule :=
  ⟨decode_encode .rstep, fun _ => exec_rstep_of_open,
    fun s hfails => State.next_perform_of_some ((firstError_rstepChecks s).trans (if_pos hfails)) _⟩

/-- BLKE in an open sequence after its 64 rounds (R317). -/
theorem exec_blke_of_open {s : State} (hopen : s.cfact = true) (hrnd : s.rnd.toNat = 64) :
    exec .blke s = .next { s with v := s.v.xor s.wk, cfact := false, code := .ok } := by
  have hpass : ¬ (s.cfact = false ∨ s.rnd.toNat ≠ 64) := by simp [hopen, hrnd]
  exact State.next_perform_of_none ((firstError_blkeChecks s).trans (if_neg hpass)) _

/-- Settles O35: the one check decides between the error and the feed-forward. -/
theorem blkeRule : Obligations.BlkeRule :=
  ⟨decode_encode .blke, fun s hopen hrnd => ⟨_, exec_blke_of_open hopen hrnd, rfl, s.v.get_xor s.wk⟩,
    fun s hfails => State.next_perform_of_some ((firstError_blkeChecks s).trans (if_pos hfails)) _⟩

/-- Settles O36: the checks decide between the errors and one Fold over the bytes at SRC. -/
theorem cmprRule : Obligations.CmprRule := by
  refine ⟨decode_encode .cmpr, fun s hzero => ?_, fun s hne hpart => ?_, fun s hne hwhole hsrc => ?_,
    fun s hne hwhole hsrc => ?_⟩
  all_goals have hchecks := firstError_cmprChecks s
  · exact State.next_perform_of_some (hchecks.trans (if_pos hzero)) _
  · exact State.next_perform_of_some (hchecks.trans ((if_neg hne).trans (if_pos hpart))) _
  · have hfail := hchecks.trans ((if_neg hne).trans ((if_neg (not_not_intro hwhole)).trans (if_neg hsrc)))
    exact State.next_perform_of_some hfail _
  · have hpass := hchecks.trans ((if_neg hne).trans ((if_neg (not_not_intro hwhole)).trans (if_pos hsrc)))
    exact ⟨_, State.next_perform_of_none hpass _, rfl⟩

/-! ### What a command that succeeds or fails does to the round sequence -/

/-- A command none of whose checks names OK has had its effect when CODE is OK. -/
theorem State.perform_eq_succeed {s : State} {cs : List (Bool × Code)} {f : State → State}
    (hcodes : ∀ c ∈ cs, c.2 ≠ .ok) (hok : (s.perform cs f).code = .ok) : s.perform cs f = (f s).succeed := by
  rcases s.perform_cases cs f with ⟨e, -, he, h⟩ | ⟨-, h⟩
  · rw [h] at hok
    exact absurd hok (hcodes _ he)
  · exact h

/-- A datapath command that succeeds ends by abandoning the sequence and drawing W, W1 and WK afresh (R314). -/
theorem exec_datapath {i : Instr} {s t : State} (hi : i ∈ datapathCommands) (h : exec i s = .next t)
    (hok : t.code = .ok) : ∃ u : State, s.draws ≤ u.draws ∧ t = u.useDatapath.succeed := by
  cases i with
  | mkvfy =>
    rcases exec_mkvfy_cases h with ⟨n, e, he, rfl⟩ | ⟨n, r, rfl⟩
    · exact absurd (hok ▸ he) (ok_notMem_raisable .mkvfy)
    · exact ⟨_, by simp only [State.setResult_draws, State.draw_draws]; omega, rfl⟩
  | cmpr | hash | hashx | staf | mkleaf | mkbld | lefg =>
    obtain rfl := Host.Outcome.next.inj h
    refine ⟨_, ?_, State.perform_eq_succeed ?_ hok⟩
    · simp
    · simp [cmprChecks, hashChecks, hashxChecks, stafChecks, mkleafChecks, mkbldChecks, lefgChecks, State.checkRegion]
  | _ => simp [datapathCommands] at hi

theorem exec_abandons {i : Instr} {s t : State} (hi : i ∈ abandoningCommands) (h : exec i s = .next t)
    (hok : t.code = .ok) : t.cfact = false ∧ t.rnd = 0 := by
  simp only [abandoningCommands, List.mem_cons] at hi
  rcases hi with rfl | rfl | rfl | hdatapath
  case inr.inr.inr =>
    obtain ⟨u, -, rfl⟩ := exec_datapath hdatapath h hok
    exact ⟨rfl, rfl⟩
  all_goals
    obtain rfl := Host.Outcome.next.inj h
    rw [State.perform_eq_succeed (by simp [ldstChecks, expdChecks, State.checkRegion]) hok]
    exact ⟨rfl, rfl⟩

/-- The words that a datapath command leaves in W, W1 and WK are the 140 draws from `s.draws` on. -/
theorem State.useDatapath_words (s : State) :
    (∀ j : Fin 68, s.useDatapath.w[j.val] = Config.freeWord (s.draws + j.val)) ∧
    (∀ j : Fin 64, s.useDatapath.w1[j.val] = Config.freeWord (s.draws + 68 + j.val)) ∧
    ∀ j : Fin 8, s.useDatapath.wk.get j = Config.freeWord (s.draws + 132 + j.val) := by
  refine ⟨fun j => ?_, fun j => ?_, fun j => ?_⟩
  · simp
  · simp [Nat.add_assoc]
  · fin_cases j <;> rfl

theorem quiet_not_abandoning : ∀ i ∈ quietCommands, i ∉ abandoningCommands := by decide

/-- No quiet command touches V or the round sequence (R314, R319). -/
theorem exec_quiet_keeps {i : Instr} {s t : State} (hi : i ∈ quietCommands) (h : exec i s = .next t) :
    t.roundRegs = s.roundRegs := by
  cases exec_roundEffect h with
  | keep hkeep => exact hkeep
  | close habandons => exact absurd habandons (quiet_not_abandoning i hi)
  | start | round | finish => exact absurd hi (by decide)

/-- A failing command touches neither V nor the round sequence (R503). -/
theorem exec_fails_keeps {i : Instr} {s t : State} (h : exec i s = .next t) (hfails : t.code ≠ .ok) :
    t.roundRegs = s.roundRegs := by
  rcases exec_completes h with ⟨hok, -⟩ | ⟨n, e, -, rfl⟩
  · exact absurd hok hfails
  · rfl

theorem State.roundRegs_eq_iff {s t : State} : t.roundRegs = s.roundRegs ↔
    t.v = s.v ∧ t.wk = s.wk ∧ t.w = s.w ∧ t.w1 = s.w1 ∧ t.rnd = s.rnd ∧ t.cfact = s.cfact := by
  simp only [State.roundRegs, RoundRegs.mk.injEq]

/-- Settles O11, by the effects a command can have on the round sequence. -/
theorem abandoningCommandsRule : Obligations.AbandoningCommands := by
  refine ⟨fun i hi s t h hok => exec_abandons hi h hok, fun i hi s t h hok => ?_, fun i hi s t h => ?_,
    fun s t h => ?_, fun s t h => ?_, fun i s t h hfails => ?_⟩
  · obtain ⟨u, hdraws, rfl⟩ := exec_datapath hi h hok
    exact ⟨u.draws, hdraws, rfl, u.useDatapath_words⟩
  · obtain ⟨-, hwk, hw, hw1, hrnd, hcfact⟩ := State.roundRegs_eq_iff.mp (exec_quiet_keeps hi h)
    exact ⟨hcfact, hrnd, hw, hw1, hwk⟩
  · cases exec_roundEffect h with
    | keep heq | finish heq => simp_all [State.roundRegs]
    | close habandons => exact absurd habandons (by decide)
  · cases exec_roundEffect h with
    | keep heq | round _ heq => simp_all [State.roundRegs]
    | close habandons => exact absurd habandons (by decide)
  · obtain ⟨-, hwk, hw, hw1, hrnd, hcfact⟩ := State.roundRegs_eq_iff.mp (exec_fails_keeps h hfails)
    exact ⟨hcfact, hrnd, hw, hw1, hwk⟩

/-! ### Fold -/

theorem blockAt_append_left {x : List Byte} (y : List Byte) {k : Nat} (hk : k < x.length / 64) :
    blockAt (x ++ y) k = blockAt x k := by
  have hdrop : 64 * k ≤ x.length := by omega
  have htake : 64 ≤ (x.drop (64 * k)).length := by rw [List.length_drop]; omega
  rw [blockAt, List.drop_append_of_le_length hdrop, List.take_append_of_le_length htake, blockAt]

theorem blockAt_append_right {x : List Byte} (y : List Byte) (hx : x.length % 64 = 0) (k : Nat) :
    blockAt (x ++ y) (x.length / 64 + k) = blockAt y k := by
  have hstart : 64 * (x.length / 64 + k) = x.length + 64 * k := by omega
  rw [blockAt, hstart, List.drop_length_add_append, blockAt]

/-- Settles O56: the blocks of x || y are those of x, then those of y. -/
theorem foldOfConcatenation : Obligations.FoldOfConcatenation := by
  intro v x y hx
  have hblocks : (x ++ y).length / 64 = x.length / 64 + y.length / 64 := by rw [List.length_append]; omega
  have hleft : (List.range (x.length / 64)).foldl (fun v k => cf v (blockAt (x ++ y) k)) v = foldBlocks v x :=
    List.foldl_ext _ _ _ fun v k hk => by rw [blockAt_append_left y (List.mem_range.mp hk)]
  rw [foldBlocks, hblocks, List.range_add, List.foldl_append, hleft, List.foldl_map]
  simp only [blockAt_append_right y hx, foldBlocks]

theorem foldBlocks_of_one_block (v : Words8) {b : List Byte} (hb : b.length = 64) : foldBlocks v b = cf v b := by
  have hfirst : blockAt b 0 = b := List.take_of_length_le hb.le
  simp [foldBlocks, hb, hfirst]

/-! ### A round sequence -/

/-- V and the round registers in a sequence on the block `b`, opened with V = `v`, after `n` rounds (R315, R316). -/
def RoundRegs.afterRounds (v : Words8) (b : List Byte) (n : Nat) : RoundRegs :=
  ⟨v, rounds (expand b) (mixing (expand b)) v n, expand b, mixing (expand b), BitVec.ofNat 7 n, true⟩

theorem runCommands_cons {i : Instr} {s t : State} (h : exec i s = .next t) (is : List Instr) :
    runCommands (i :: is) s = runCommands is t := by
  rw [runCommands, h]

theorem runCommands_append (is js : List Instr) : ∀ {s t : State},
    runCommands is s = .next t → runCommands (is ++ js) s = runCommands js t := by
  induction is with
  | nil => exact fun h => congrArg (runCommands js) (Host.Outcome.next.inj h)
  | cons i is ih =>
    intro s t h
    obtain ⟨u, hu⟩ := exec_next i s
    rw [runCommands_cons hu] at h
    rw [List.cons_append, runCommands_cons hu, ih h]

section sequence
variable {v : Words8} {b : List Byte} {s : State}

theorem exec_blkb_afterRounds (h : InMem s s.srcAddr 64) :
    ∃ t, exec .blkb s = .next t ∧ t.roundRegs = .afterRounds s.v (s.readBytes s.srcAddr 64) 0 :=
  ⟨_, exec_blkb_of_inMem h, rfl⟩

theorem exec_rstep_afterRounds {n : Nat} (hs : s.roundRegs = .afterRounds v b n) (hn : n < 64) :
    ∃ t, exec .rstep s = .next t ∧ t.roundRegs = .afterRounds v b (n + 1) := by
  simp only [State.roundRegs, RoundRegs.afterRounds, RoundRegs.mk.injEq] at hs
  obtain ⟨hv, hwk, hw, hw1, hrnd, hcfact⟩ := hs
  have hn' : s.rnd.toNat = n := by rw [hrnd, BitVec.toNat_ofNat]; omega
  refine ⟨_, exec_rstep_of_open hcfact (hn' ▸ hn), ?_⟩
  simp only [State.roundRegs, RoundRegs.afterRounds, rounds, hv, hwk, hw, hw1, hn', hcfact]

/-- Quiet commands in between do not disturb the count of the rounds (R319). -/
theorem runCommands_afterRounds (cs : List Instr) : ∀ {s : State} {n : Nat},
    (∀ c ∈ cs, c = .rstep ∨ c ∈ quietCommands) → n + cs.count .rstep ≤ 64 → s.roundRegs = .afterRounds v b n →
    ∃ t, runCommands cs s = .next t ∧ t.roundRegs = .afterRounds v b (n + cs.count .rstep) := by
  induction cs with
  | nil => exact fun _ _ hs => ⟨_, rfl, hs⟩
  | cons c cs ih =>
    intro s n hcs hn hs
    obtain ⟨hc, hrest⟩ := List.forall_mem_cons.mp hcs
    rcases hc with rfl | hquiet
    · rw [List.count_cons_self] at hn ⊢
      obtain ⟨t, ht, hround⟩ := exec_rstep_afterRounds hs (by omega)
      rw [runCommands_cons ht, show n + (cs.count .rstep + 1) = n + 1 + cs.count .rstep by omega]
      exact ih hrest (by omega) hround
    · have hne : c ≠ .rstep := by rintro rfl; exact absurd hquiet (by decide)
      rw [List.count_cons_of_ne hne] at hn ⊢
      obtain ⟨t, ht⟩ := exec_next c s
      rw [runCommands_cons ht]
      exact ih hrest hn ((exec_quiet_keeps hquiet ht).trans hs)

theorem exec_blke_afterRounds (hs : s.roundRegs = .afterRounds v b 64) :
    ∃ t, exec .blke s = .next t ∧ t.v = cf v b ∧ t.rnd.toNat = 64 ∧ t.cfact = false ∧ t.code = .ok := by
  simp only [State.roundRegs, RoundRegs.afterRounds, RoundRegs.mk.injEq] at hs
  obtain ⟨hv, hwk, -, -, hrnd, hcfact⟩ := hs
  have hrnd : s.rnd.toNat = 64 := by rw [hrnd]; rfl
  refine ⟨_, exec_blke_of_open hcfact hrnd, ?_, hrnd, rfl, rfl⟩
  simp only [hv, hwk, cf]

end sequence

/-- Settles O55: BLKB opens the sequence at round 0, the commands in between carry it to round 64, and BLKE then does the
feed-forward of CF; the Fold of CMPR is one CF. -/
theorem roundSequenceEquivalence : Obligations.RoundSequenceEquivalence := by
  refine ⟨fun s cs hsrc hcs hcount => ?_, fun s hsrc hlen => ?_⟩
  · obtain ⟨t₀, hblkb, hstart⟩ := exec_blkb_afterRounds hsrc
    obtain ⟨t₁, hrun, hround⟩ := runCommands_afterRounds cs hcs (by omega) hstart
    rw [hcount] at hround
    obtain ⟨t, hblke, hend⟩ := exec_blke_afterRounds hround
    refine ⟨t, ?_, hend⟩
    rw [List.cons_append, runCommands_cons hblkb, runCommands_append cs _ hrun, runCommands_cons hblke, runCommands]
  · obtain ⟨-, -, -, -, hdone⟩ := cmprRule
    obtain ⟨t, ht, hframe⟩ := hdone s (by omega) (by omega) (hlen ▸ hsrc)
    refine ⟨t, ht, ?_⟩
    have hv : t.v = foldBlocks s.v (s.readBytes s.src.toNat s.len.toNat) := congrArg State.v hframe
    rw [hv, hlen, foldBlocks_of_one_block _ (s.readBytes_length ..)]

end Sys2Proof.Machine
end

section
/-! ### Proofs of 44_digest_facade.md: the serializers and the commands of the digest façade -/

namespace Sys2Proof

theorem Words8.ext_get {x y : Words8} (h : ∀ i, x.get i = y.get i) : x = y := by
  cases x
  cases y
  exact (Words8.mk.injEq ..).mpr ⟨h 0, h 1, h 2, h 3, h 4, h 5, h 6, h 7⟩

end Sys2Proof

namespace Sys2Proof.Machine

/-! ### Serialize and Unserialize -/

/-- Unpacking takes the digits that packing adds up (R200, R201). -/
theorem unbe32_be32 (a b c d : Byte) : unbe32 (be32 a b c d) = [a, b, c, d] := by
  refine List.map_injective_iff.mpr (fun _ _ => BitVec.eq_of_toNat_eq) ?_
  rw [unbe32_toNat, be32_toNat]
  simp only [List.map_cons, List.map_nil, List.cons.injEq, and_true]
  omega

theorem unbe32_wordAt_getElem? (d : List Byte) (i : Nat) {k : Nat} (hk : k < 4) :
    (unbe32 (wordAt d i))[k]? = some (d.getD (4 * i + k) 0) := by
  rw [wordAt, unbe32_be32]
  interval_cases k <;> rfl

theorem eightWords_getElem? (x : Words8) (i : Fin 8) : (eightWords x)[i.val]? = some (x.get i) := by
  have hi : i.val < (eightWords x).length := i.isLt
  rw [get_eq_eightWords_getD, List.getD_eq_getElem _ _ hi, List.getElem?_eq_getElem hi]

theorem unserialize_get (d : List Byte) (i : Fin 8) : (unserialize d).get i = wordAt d i.val := by
  fin_cases i <;> rfl

theorem flatMap_unbe32_getElem? {ws : List Word} {i k : Nat} {x : Word} (h : ws[i]? = some x) (hk : k < 4) :
    (ws.flatMap unbe32)[4 * i + k]? = (unbe32 x)[k]? := by
  induction ws generalizing i with
  | nil => cases h
  | cons y ws ih =>
    rw [List.flatMap_cons]
    cases i with
    | zero =>
      cases h
      rw [Nat.mul_zero, Nat.zero_add, List.getElem?_append_left (by rwa [unbe32_length])]
    | succ i =>
      have hskip : 4 * (i + 1) + k - 4 = 4 * i + k := by omega
      rw [List.getElem?_append_right (by rw [unbe32_length]; omega), unbe32_length, hskip]
      exact ih h

/-- Byte 4i + k of a digest is byte k of its word i (R351). -/
theorem serialize_getElem? (v : Words8) (i : Fin 8) {k : Nat} (hk : k < 4) :
    (serialize v)[4 * i.val + k]? = (unbe32 (v.get i))[k]? := by
  have hwords : serialize v = (eightWords v).flatMap unbe32 := by simp [serialize, eightWords]
  rw [hwords]
  exact flatMap_unbe32_getElem? (eightWords_getElem? v i) hk

/-- A word is its four bytes (R200). -/
theorem wordAt_congr {s t : List Byte} {i j : Nat} (h : ∀ k < 4, s[4 * i + k]? = t[4 * j + k]?) :
    wordAt s i = wordAt t j := by
  have hbyte : ∀ k < 4, s.getD (4 * i + k) 0 = t.getD (4 * j + k) 0 := fun k hk => by
    rw [List.getD_eq_getElem?_getD, h k hk, List.getD_eq_getElem?_getD]
  rw [wordAt, hbyte 1 (by decide), hbyte 2 (by decide), hbyte 3 (by decide)]
  exact congrArg (be32 · _ _ _) (hbyte 0 (by decide))

theorem wordAt_serialize (v : Words8) (i : Fin 8) : wordAt (serialize v) i.val = v.get i := by
  rw [← wordAt_unbe32 (v.get i)]
  exact wordAt_congr fun k hk => by rw [serialize_getElem? v i hk, Nat.mul_zero, Nat.zero_add]

theorem unserialize_serialize (v : Words8) : unserialize (serialize v) = v :=
  Words8.ext_get fun i => (unserialize_get _ i).trans (wordAt_serialize v i)

theorem serialize_unserialize {d : List Byte} (hd : d.length = 32) : serialize (unserialize d) = d := by
  refine List.ext_getElem hd.symm fun n hn hnd => Option.some_inj.mp ?_
  rw [serialize_length] at hn
  have hsplit : n = 4 * (n / 4) + n % 4 := by omega
  have hbyte := serialize_getElem? (unserialize d) ⟨n / 4, by omega⟩ (Nat.mod_lt n four_pos)
  rw [unserialize_get, unbe32_wordAt_getElem? d _ (Nat.mod_lt n four_pos), ← hsplit,
    List.getD_eq_getElem d 0 hnd] at hbyte
  rw [← List.getElem?_eq_getElem, hbyte]

/-- Settles O52: Serialize unpacks, and Unserialize packs, the same four bytes of each word. -/
theorem serializerInverse : Obligations.SerializerInverse :=
  ⟨fun v => ⟨serialize_length v, unserialize_serialize v⟩, fun v i _ hk => serialize_getElem? v i hk,
    fun _ hd => serialize_unserialize hd⟩

/-! ### Hex -/

/-- The two ranges of ASCII codes of the digits (R352). -/
theorem hexDigit_toNat (x : BitVec 4) :
    (hexDigit x).toNat = x.toNat + if x.toNat < 10 then 0x30 else 0x37 := by
  have hx := x.isLt
  rw [hexDigit]
  split <;> split <;> rw [BitVec.toNat_ofNat] <;> omega

theorem hexBytes_cons (b : Byte) (d : List Byte) :
    hexBytes (b :: d) = hexDigit (b.extractLsb' 4 4) :: hexDigit (b.extractLsb' 0 4) :: hexBytes d := rfl

/-- Byte i of D gives characters 2i and 2i + 1 of Hex(D) (R352). -/
theorem hexBytes_getElem? {d : List Byte} {i : Nat} {b : Byte} (h : d[i]? = some b) :
    (hexBytes d)[2 * i]? = some (hexDigit (b.extractLsb' 4 4)) ∧
      (hexBytes d)[2 * i + 1]? = some (hexDigit (b.extractLsb' 0 4)) := by
  induction d generalizing i with
  | nil => cases h
  | cons c d ih =>
    cases i with
    | zero => cases h; exact ⟨rfl, rfl⟩
    | succ i => exact ih h

theorem highNibble_toNat (b : Byte) : (b.extractLsb' 4 4).toNat = b.toNat / 16 := by
  have hb := b.isLt
  rw [BitVec.extractLsb'_toNat, Nat.shiftRight_eq_div_pow]
  omega

theorem lowNibble_toNat (b : Byte) : (b.extractLsb' 0 4).toNat = b.toNat % 16 := by
  rw [BitVec.extractLsb'_toNat, Nat.shiftRight_zero]

/-- Settles O53: the two characters of a byte are the digits of its nibbles. -/
theorem hexSerializer : Obligations.HexSerializer := by
  intro d i b hb
  obtain ⟨hhigh, hlow⟩ := hexBytes_getElem? hb
  refine ⟨hexBytes_length d, _, _, hhigh, hlow, ?_, ?_⟩
  · rw [hexDigit_toNat, highNibble_toNat]
  · rw [hexDigit_toNat, lowNibble_toNat]

/-! ### Commands that check one region, or two -/

theorem State.firstError_regions (s : State) (a n b m : Nat) :
    firstError [s.checkRegion a n, s.checkRegion b m] =
      if InMem s a n ∧ InMem s b m then none else some .addrRange := by
  rw [s.firstError_checkRegion, s.firstError_checkRegion, firstError_nil, ite_and]

section regions
variable {s : State} {a n b m : Nat} (f : State → State)

theorem State.next_perform_region (h : InMem s a n) :
    (.next (s.perform [s.checkRegion a n] f) : Host.Outcome State Fault Refusal) = .next (f s).succeed :=
  State.next_perform_of_none ((s.firstError_checkRegion a n []).trans (if_pos h)) f

theorem State.next_perform_region_fails (h : ¬ InMem s a n) :
    .next (s.perform [s.checkRegion a n] f) = failsWith s .addrRange :=
  State.next_perform_of_some ((s.firstError_checkRegion a n []).trans (if_neg h)) f

theorem State.next_perform_regions (h : InMem s a n) (h' : InMem s b m) :
    (.next (s.perform [s.checkRegion a n, s.checkRegion b m] f) : Host.Outcome State Fault Refusal) =
      .next (f s).succeed :=
  State.next_perform_of_none ((s.firstError_regions a n b m).trans (if_pos ⟨h, h'⟩)) f

theorem State.next_perform_regions_fails (h : ¬ InMem s a n ∨ ¬ InMem s b m) :
    .next (s.perform [s.checkRegion a n, s.checkRegion b m] f) = failsWith s .addrRange :=
  State.next_perform_of_some ((s.firstError_regions a n b m).trans (if_neg (not_and_or.mpr h))) f

end regions

/-! ### What a command that writes at DST changes -/

theorem State.writeBytes_effect {s t : State} {a : Nat} {bs : List Byte} (ht : t = (s.writeBytes a bs).succeed) :
    t = { s with mem := t.mem, code := .ok } ∧ Stores s.mem t.mem a bs := by
  subst ht
  exact ⟨rfl, s.mem.stores_write a bs⟩

/-- A datapath command that reads `k` bytes, writes `bs` at `a` and gives `n` in RESULT (43_compression.md R314). -/
theorem State.datapathWrite_effect {s t : State} {a k n : Nat} {bs : List Byte}
    (ht : t = (((s.draw k).writeBytes a bs).setResult n).useDatapath.succeed) :
    t = { s with mem := t.mem, result := BitVec.ofNat 64 n, cfact := false, rnd := 0, code := .ok,
                 w := t.w, w1 := t.w1, wk := t.wk, draws := t.draws } ∧ Stores s.mem t.mem a bs := by
  subst ht
  exact ⟨State.ext_iff.mpr (by simp), s.mem.stores_write a bs⟩

/-! ### INIT, LDST, STST and HEXST -/

/-- Settles O26: INIT has no check, so that it always has its effect. -/
theorem initRule : Obligations.InitRule :=
  ⟨decode_encode .init, fun _ => State.next_perform_of_none firstError_nil _⟩

/-- Settles O27: the one check decides between the error and V loaded from the digest at SRC. -/
theorem ldstRule : Obligations.LdstRule :=
  ⟨decode_encode .ldst, fun _ hsrc => ⟨_, State.next_perform_region _ hsrc, rfl⟩,
    fun _ hsrc => State.next_perform_region_fails _ hsrc⟩

/-- STST on a digest's room inside MEM (R355). -/
theorem exec_stst_of_inMem {s : State} (h : InMem s s.dstAddr 32) :
    exec .stst s = .next (s.writeBytes s.dstAddr (serialize s.v)).succeed :=
  State.next_perform_region _ h

/-- Settles O28: the one check decides between the error and one write of Serialize(V). -/
theorem ststRule : Obligations.StstRule :=
  ⟨decode_encode .stst, fun _ hdst => ⟨_, exec_stst_of_inMem hdst, State.writeBytes_effect rfl⟩,
    fun _ hdst => State.next_perform_region_fails _ hdst⟩

/-- Settles O29: the one check decides between the error and one write of Hex(Serialize(V)). -/
theorem hexstRule : Obligations.HexstRule :=
  ⟨decode_encode .hexst, fun _ hdst => ⟨_, State.next_perform_region _ hdst, State.writeBytes_effect rfl⟩,
    fun _ hdst => State.next_perform_region_fails _ hdst⟩

/-! ### HASH, HASHX and STAF -/

/-- HASH with its message and the digest's room inside MEM (R357). -/
theorem exec_hash_of_inMem {s : State} (hsrc : InMem s s.srcAddr s.lenVal) (hdst : InMem s s.dstAddr 32) :
    exec .hash s = .next (s.hashTo fun d => d).succeed :=
  State.next_perform_regions _ hsrc hdst

/-- Settles O37: the checks decide between the error and one write of the digest. -/
theorem hashRule : Obligations.HashRule :=
  ⟨decode_encode .hash, fun _ hsrc hdst => ⟨_, exec_hash_of_inMem hsrc hdst, State.datapathWrite_effect rfl⟩,
    fun _ hfails => State.next_perform_regions_fails _ hfails⟩

/-- Settles O38: the checks decide between the error and one write of the digest in hexadecimal. -/
theorem hashxRule : Obligations.HashxRule :=
  ⟨decode_encode .hashx,
    fun _ hsrc hdst => ⟨_, State.next_perform_regions _ hsrc hdst, State.datapathWrite_effect rfl⟩,
    fun _ hfails => State.next_perform_regions_fails _ hfails⟩

/-- The state that STAF leaves when its message is inside MEM (R359). -/
def State.stafDone (s : State) : State :=
  ((((s.draw s.lenVal).setV (hashState (s.readBytes s.srcAddr s.lenVal))).setResult (padLen s.lenVal)).useDatapath).succeed

@[simp] theorem State.stafDone_v (s : State) : s.stafDone.v = hashState (s.readBytes s.srcAddr s.lenVal) := rfl
@[simp] theorem State.stafDone_mem (s : State) : s.stafDone.mem = s.mem := rfl
@[simp] theorem State.stafDone_dstAddr (s : State) : s.stafDone.dstAddr = s.dstAddr := rfl

/-- The message has LEN bytes, so that its padded length is P(LEN). -/
theorem exec_staf_of_inMem {s : State} (h : InMem s s.srcAddr s.lenVal) : exec .staf s = .next s.stafDone := by
  have hdone : exec .staf s = _ := State.next_perform_region _ h
  rw [hdone, State.stafDone, stateAfter, State.readBytes_length]

/-- STAF leaves SM3's final HashState in V, and STST then serializes it at DST, which is what HASH does (R359). -/
theorem staf_stst_mem_eq_hash {s : State} (hsrc : InMem s s.srcAddr s.lenVal) (hdst : InMem s s.dstAddr 32) :
    ∃ t u, runCommands [.staf, .stst] s = .next t ∧ exec .hash s = .next u ∧ t.mem = u.mem := by
  have hstst := exec_stst_of_inMem (s := s.stafDone) hdst
  have hrun := (runCommands_cons (exec_staf_of_inMem hsrc) [.stst]).trans (runCommands_cons hstst [])
  refine ⟨_, _, hrun, exec_hash_of_inMem hsrc hdst, ?_⟩
  simp only [State.succeed_mem, State.writeBytes_mem, State.hashTo_mem, State.stafDone_mem, State.stafDone_dstAddr,
    State.stafDone_v, sm3]

/-- Settles O39: the one check decides between the error and V set to the HashState that HASH serializes. -/
theorem stafRule : Obligations.StafRule :=
  ⟨decode_encode .staf, fun _ hsrc => ⟨_, exec_staf_of_inMem hsrc, rfl⟩,
    fun _ hsrc => State.next_perform_region_fails _ hsrc, fun _ => staf_stst_mem_eq_hash⟩

end Sys2Proof.Machine
end

section
/-! ### Proofs of 45_merkle.md: the levels of a tree and inclusion proofs -/

namespace Sys2Proof.Machine

/-! ### Levels, depth and root, one level at a time -/

theorem levelsFuel_of_length_le_one {lv : List Words8} (h : lv.length ≤ 1) (n : Nat) : levelsFuel n lv = [lv] := by
  cases n with
  | zero => rfl
  | succ n => exact if_pos h

theorem levelsFuel_succ_of_one_lt {lv : List Words8} (h : 1 < lv.length) (n : Nat) :
    levelsFuel (n + 1) lv = lv :: levelsFuel n (nextLevel lv) :=
  if_neg h.not_ge

/-- Fuel above the size of the level adds nothing. -/
theorem levelsFuel_congr (m : Nat) : ∀ {n : Nat} {lv : List Words8}, lv.length ≤ m → lv.length ≤ n →
    levelsFuel m lv = levelsFuel n lv := by
  induction m with
  | zero =>
    intro n lv hm _
    have hone : lv.length ≤ 1 := by omega
    rw [levelsFuel_of_length_le_one hone, levelsFuel_of_length_le_one hone]
  | succ m ih =>
    intro n lv hm hn
    rcases Nat.lt_or_ge 1 lv.length with hone | hone
    · obtain ⟨n, rfl⟩ := Nat.exists_eq_add_one_of_ne_zero (show n ≠ 0 by omega)
      have hnext := nextLevel_length lv
      rw [levelsFuel_succ_of_one_lt hone, levelsFuel_succ_of_one_lt hone, ih (n := n) (by omega) (by omega)]
    · rw [levelsFuel_of_length_le_one hone, levelsFuel_of_length_le_one hone]

/-- The loop of Levels goes on from a level of at least two nodes (R403). -/
theorem levels_of_one_lt {lv : List Words8} (h : 1 < lv.length) : levels lv = lv :: levels (nextLevel lv) := by
  obtain ⟨n, hn⟩ := Nat.exists_eq_add_one_of_ne_zero (show lv.length ≠ 0 by omega)
  have hnext := nextLevel_length lv
  rw [levels, hn, levelsFuel_succ_of_one_lt h, levels, levelsFuel_congr n (by omega) le_rfl]

theorem levels_ne_nil (lv : List Words8) : levels lv ≠ [] := by
  rcases Nat.lt_or_ge 1 lv.length with h | h
  · rw [levels_of_one_lt h]; exact List.cons_ne_nil _ _
  · rw [levels, levelsFuel_of_length_le_one h]; exact List.cons_ne_nil _ _

theorem treeDepth_of_one_lt {lv : List Words8} (h : 1 < lv.length) : treeDepth lv = treeDepth (nextLevel lv) + 1 := by
  have hpos := List.length_pos_iff.mpr (levels_ne_nil (nextLevel lv))
  rw [treeDepth, levels_of_one_lt h, List.length_cons, treeDepth]
  omega

theorem treeRoot_of_one_lt {lv : List Words8} (h : 1 < lv.length) : treeRoot lv = treeRoot (nextLevel lv) := by
  rw [treeRoot, levels_of_one_lt h, List.getLast?_cons_of_ne_nil (levels_ne_nil _), treeRoot]

/-- What holds of a tree of one leaf, and of a level when it holds of the next one, holds of every tree (R403). -/
theorem tree_induction {motive : (lv : List Words8) → lv ≠ [] → Prop} (leaf : ∀ x, motive [x] (List.cons_ne_nil x []))
    (node : ∀ lv hne hnext, 1 < lv.length → motive (nextLevel lv) hnext → motive lv hne) : ∀ lv hne, motive lv hne
  | [], hne => absurd rfl hne
  | [x], _ => leaf x
  | x :: y :: rest, hne =>
    node _ hne (List.cons_ne_nil _ _) (by simp) (tree_induction leaf node (nextLevel (x :: y :: rest)) _)
  termination_by lv => lv.length
  decreasing_by simp; omega

/-- Halving rounds up, so that the number of levels is that of ceil(log2) (R403). -/
theorem treeDepth_eq_clog {leaves : List Words8} (h : leaves ≠ []) : treeDepth leaves = Nat.clog 2 leaves.length := by
  induction leaves, h using tree_induction with
  | leaf x => exact (Nat.clog_one_right 2).symm
  | node lv _ _ hlv ih => rw [treeDepth_of_one_lt hlv, ih, nextLevel_length, Nat.clog_of_two_le one_lt_two hlv]; rfl

theorem treeDepth_le {leaves : List Words8} (h : leaves ≠ []) (hlen : leaves.length < 2 ^ 32) : treeDepth leaves ≤ 32 :=
  treeDepth_eq_clog h ▸ Nat.clog_le_of_le_pow hlen.le

theorem levels_getElem?_treeDepth {leaves : List Words8} (h : leaves ≠ []) :
    (levels leaves)[treeDepth leaves]? = some [treeRoot leaves] := by
  induction leaves, h using tree_induction with
  | leaf x => rfl
  | node lv _ _ hlv ih =>
    rw [levels_of_one_lt hlv, treeDepth_of_one_lt hlv, treeRoot_of_one_lt hlv, List.getElem?_cons_succ, ih]

/-- Settles O58, by induction from a level to the one below it. -/
theorem treeDepthIsCeilLog : Obligations.TreeDepthIsCeilLog := fun _ h =>
  ⟨treeDepth_eq_clog h, treeDepth_le h, levels_getElem?_treeDepth h⟩

/-! ### The duplicate-leaf ambiguity -/

/-- An unpaired last node is paired with itself, as if it stood there twice (R403). -/
theorem nextLevel_append_singleton (x : Words8) : ∀ lv : List Words8, lv.length % 2 = 0 →
    nextLevel (lv ++ [x]) = nextLevel (lv ++ [x, x])
  | [], _ => rfl
  | [_], h => by simp at h
  | y :: z :: rest, h => by
    have ih := nextLevel_append_singleton x rest (by rw [List.length_cons, List.length_cons] at h; omega)
    simpa only [List.cons_append, nextLevel, List.cons.injEq, true_and] using ih

/-- Settles O60: the two trees have the same level 1. -/
theorem duplicateLeafAmbiguity : Obligations.DuplicateLeafAmbiguity := by
  intro leaves x hne heven
  have hpos := List.length_pos_iff.mpr hne
  rw [treeRoot_of_one_lt (by simp [hpos]), nextLevel_append_singleton x leaves heven,
    ← treeRoot_of_one_lt (by simp)]

/-! ### Inclusion proofs -/

/-- Node p of a level has the nodes 2p and 2p + 1 below it, or 2p twice when it is the last (R403). -/
theorem nextLevel_getElem? {l : Words8} : ∀ {lv : List Words8} {p : Nat}, lv[2 * p]? = some l →
    (nextLevel lv)[p]? = some (nodeHash l (lv.getD (2 * p + 1) l))
  | [x], 0, h => by cases h; rfl
  | x :: y :: rest, 0, h => by cases h; rfl
  | x :: y :: rest, p + 1, h => nextLevel_getElem? (lv := rest) (p := p) h

/-- The parent of node `i` is the hash of it and its sibling, on the sides that bit 0 of `i` says (R404, R406). -/
theorem nextLevel_getElem?_half {lv : List Words8} {i : Nat} {h : Words8} (hi : lv[i]? = some h) :
    (nextLevel lv)[i / 2]? =
      some (if i.testBit 0 then nodeHash (siblingAt lv i) h else nodeHash h (siblingAt lv i)) := by
  rcases Nat.even_or_odd' i with ⟨p, rfl | rfl⟩
  · have hsib : siblingAt lv (2 * p) = lv.getD (2 * p + 1) h := by
      rw [siblingAt, Nat.xor_one_of_even (even_two_mul p), List.getD_eq_getElem?_getD (i := 2 * p), hi,
        Option.getD_some]
    simp [nextLevel_getElem? hi, hsib]
  · obtain ⟨hlt, -⟩ := List.getElem?_eq_some_iff.mp hi
    have hleft : lv[2 * p]? = some lv[2 * p] := List.getElem?_eq_getElem (by omega)
    have hsib : siblingAt lv (2 * p + 1) = lv[2 * p] := by
      rw [siblingAt, Nat.xor_one_of_odd (odd_two_mul_add_one p), Nat.add_sub_cancel, List.getD_eq_getElem]
    have hhalf : (2 * p + 1) / 2 = p := by omega
    rw [hhalf, nextLevel_getElem? hleft, hsib, List.getD_eq_getElem?_getD, hi]
    simp

/-- The siblings of a path are the one in the lowest level and those of the parent's path above it (R404). -/
theorem proofSiblings_cons (lv : List Words8) (lvs : List (List Words8)) (k i : Nat) :
    proofSiblings (lv :: lvs) (k + 1) i = siblingAt lv i :: proofSiblings lvs k (i / 2) := by
  simp [proofSiblings, List.range_succ_eq_map, Nat.shiftRight_succ_inside]

/-- Verify's loop goes through the lowest sibling and then up from the parent (R406). -/
theorem foldl_verifyStep_cons (i k : Nat) (x h : Words8) (sibs : List Words8) :
    (List.range (k + 1)).foldl (verifyStep i (x :: sibs)) h =
      (List.range k).foldl (verifyStep (i / 2) sibs) (if i.testBit 0 then nodeHash x h else nodeHash h x) := by
  have hstep (cur : Words8) (j : Nat) : verifyStep i (x :: sibs) cur (j + 1) = verifyStep (i / 2) sibs cur j := by
    rw [verifyStep, Nat.testBit_succ, List.getD_cons_succ, verifyStep]
  simp only [List.range_succ_eq_map, List.foldl_cons, List.foldl_map, hstep]
  rfl

/-- Verify's loop, on the proof of a leaf, comes to the root (R404, R406). -/
theorem foldl_verifyStep_proofSiblings {leaves : List Words8} (hne : leaves ≠ []) {i : Nat} {h : Words8}
    (hi : leaves[i]? = some h) :
    (List.range (treeDepth leaves)).foldl (verifyStep i (proofSiblings (levels leaves) (treeDepth leaves) i)) h =
      treeRoot leaves := by
  induction leaves, hne using tree_induction generalizing i h with
  | leaf x =>
    obtain ⟨rfl, rfl⟩ : i = 0 ∧ x = h := by simpa [List.getElem?_singleton] using hi
    rfl
  | node lv _ _ hlv ih =>
    rw [treeDepth_of_one_lt hlv, levels_of_one_lt hlv, treeRoot_of_one_lt hlv, proofSiblings_cons,
      foldl_verifyStep_cons]
    exact ih (nextLevel_getElem?_half hi)

/-- An index of a tree has no bit at or above the depth (R403, R406). -/
theorem shiftRight_treeDepth {leaves : List Words8} {i : Nat} (hi : i < leaves.length) :
    i >>> treeDepth leaves = 0 := by
  have hne : leaves ≠ [] := List.ne_nil_of_length_pos (by omega)
  rw [treeDepth_eq_clog hne, Nat.shiftRight_eq_div_pow]
  exact Nat.div_eq_of_lt (hi.trans_le (Nat.le_pow_clog one_lt_two _))

/-- Settles O59: the index is in range, and the loop of Verify follows the path to the root. -/
theorem merkleProofsVerify : Obligations.MerkleProofsVerify := by
  intro leaves i h hi
  obtain ⟨hlt, -⟩ := List.getElem?_eq_some_iff.mp hi
  have hloop := foldl_verifyStep_proofSiblings (List.ne_nil_of_length_pos (by omega)) hi
  rw [verifyProof, if_neg (not_not_intro (shiftRight_treeDepth hlt)), hloop, beq_self_eq_true]

end Sys2Proof.Machine
end

section
/-! ### Proofs of 45_merkle.md: the commands of the Merkle-tree builder -/

namespace Sys2Proof.Machine

/-! ### MKCLR, MKLEAF and MKBLD -/

/-- Settles O40: MKCLR has no check, so that it always has its effect. -/
theorem mkclrRule : Obligations.MkclrRule :=
  ⟨decode_encode .mkclr, fun _ => State.next_perform_of_none firstError_nil _⟩

theorem firstError_mkleafChecks (s : State) : firstError (mkleafChecks s) =
    if s.leafCnt.toNat = s.params.maxLeaves then some .capacity
    else if InMem s s.srcAddr s.lenVal then none else some .addrRange := by
  rw [mkleafChecks, firstError_decide, s.firstError_checkRegion, firstError_nil]

theorem firstError_mkbldChecks (s : State) : firstError (mkbldChecks s) =
    if s.leafCnt.toNat = 0 then some .emptyInput
    else if InMem s s.dstAddr 32 then none else some .addrRange := by
  rw [mkbldChecks, firstError_decide, s.firstError_checkRegion, firstError_nil]

/-- LEAFCNT has room for one more in [0, MAX_LEAVES] (00_scope.md R7, 10_state.md R63). -/
theorem State.leafCnt_succ {s : State} (hok : s.params.ok = true) (hroom : s.leafCnt.toNat < s.params.maxLeaves) :
    (s.leafCnt + 1).toNat = s.leafCnt.toNat + 1 := by
  simp only [Params.ok, decide_eq_true_eq] at hok
  exact BitVec.toNat_add_of_lt (show s.leafCnt.toNat + 1 < 2 ^ 32 by omega)

/-- A leaf stored in the first slot past LEAFCNT and counted stands at the end of the leaf list (R400, R411). -/
theorem State.leafList_append {s t : State} {d : Words8} (hleaf : t.leaf = storeSet s.leaf s.leafCnt.toNat d)
    (hcnt : t.leafCnt.toNat = s.leafCnt.toNat + 1) : t.leafList = s.leafList ++ [d] := by
  have hnew : t.leafAt s.leafCnt.toNat = d := by rw [State.leafAt, hleaf, storeGet_storeSet_self]
  have hold : ∀ i ∈ List.range s.leafCnt.toNat, t.leafAt i = s.leafAt i := fun i hi => by
    rw [State.leafAt, hleaf, storeGet_storeSet_of_ne _ _ (List.mem_range.mp hi).ne, State.leafAt]
  rw [State.leafList, hcnt, List.range_succ, List.map_append, List.map_singleton, hnew, List.map_congr_left hold,
    State.leafList]

/-- What MKLEAF changes when it stores the digest `d` in the slot that LEAFCNT then counts in, after `k` draws (R411). -/
theorem State.mkleaf_effect {s t : State} {k : Nat} {c : Word} {d : Words8} (hc : c.toNat = s.leafCnt.toNat + 1)
    (ht : t =
      (((((s.draw k).setLeaf s.leafCnt.toNat d).setLeafCnt c).setStale).setResult c.toNat).useDatapath.succeed) :
    t = { s with leaf := t.leaf, leafCnt := BitVec.ofNat 32 (s.leafCnt.toNat + 1), built := false,
                 result := BitVec.ofNat 64 (s.leafCnt.toNat + 1), cfact := false, rnd := 0, code := .ok,
                 w := t.w, w1 := t.w1, wk := t.wk, draws := t.draws } ∧
      t.leafList = s.leafList ++ [d] := by
  subst ht
  refine ⟨State.ext_iff.mpr ?_, State.leafList_append rfl hc⟩
  simp [← hc]

/-- Settles O41: the checks decide between the errors and one leaf more. -/
theorem mkleafRule : Obligations.MkleafRule := by
  refine ⟨decode_encode .mkleaf, fun s hfull => ?_, fun s hroom hsrc => ?_, fun s hok hroom hsrc => ?_⟩
  all_goals have hchecks := firstError_mkleafChecks s
  · exact State.next_perform_of_some (hchecks.trans (if_pos hfull)) _
  · exact State.next_perform_of_some (hchecks.trans ((if_neg hroom.ne).trans (if_neg hsrc))) _
  · have hpass := hchecks.trans ((if_neg hroom.ne).trans (if_pos hsrc))
    exact ⟨_, State.next_perform_of_none hpass _, State.mkleaf_effect (State.leafCnt_succ hok hroom) rfl⟩

/-- At most 2^32 - 1 leaves are counted, so that the depth of their tree fits in DEPTH (R403, 10_state.md R64). -/
theorem State.depth_of_leafList {s : State} (hne : s.leafCnt.toNat ≠ 0) :
    (BitVec.ofNat 6 (treeDepth s.leafList)).toNat = treeDepth s.leafList := by
  have hlen : s.leafList.length = s.leafCnt.toNat := by simp [State.leafList]
  have hle := treeDepth_le (List.ne_nil_of_length_pos (by omega)) (hlen ▸ s.leafCnt.isLt)
  rw [BitVec.toNat_ofNat]
  omega

/-- What MKBLD changes when it writes the bytes `bs` of the root `r` of a tree of depth `k` at `a` (R412). -/
theorem State.mkbld_effect {s t : State} {a k : Nat} {r : Words8} {bs : List Byte} (hk : (BitVec.ofNat 6 k).toNat = k)
    (ht : t = (((s.writeBytes a bs).setTree true (BitVec.ofNat 6 k) r).setResult k).useDatapath.succeed) :
    t = { s with mem := t.mem, root := r, depth := t.depth, built := true, result := BitVec.ofNat 64 k,
                 cfact := false, rnd := 0, code := .ok, w := t.w, w1 := t.w1, wk := t.wk, draws := t.draws } ∧
      t.depth.toNat = k ∧ Stores s.mem t.mem a bs := by
  subst ht
  exact ⟨State.ext_iff.mpr (by simp), hk, s.mem.stores_write a bs⟩

/-- Settles O42: the checks decide between the errors and one write of the root, whose depth fits in DEPTH. -/
theorem mkbldRule : Obligations.MkbldRule := by
  refine ⟨decode_encode .mkbld, fun s hzero => ?_, fun s hne hdst => ?_, fun s hne hdst => ?_⟩
  all_goals have hchecks := firstError_mkbldChecks s
  · exact State.next_perform_of_some (hchecks.trans (if_pos hzero)) _
  · exact State.next_perform_of_some (hchecks.trans ((if_neg hne).trans (if_neg hdst))) _
  · have hpass := hchecks.trans ((if_neg hne).trans (if_pos hdst))
    exact ⟨_, State.next_perform_of_none hpass _, State.mkbld_effect (State.depth_of_leafList hne) rfl⟩

/-! ### MKPRV -/

theorem firstError_not_built (s : State) (cs : List (Bool × Code)) :
    firstError ((!s.built, .notBuilt) :: cs) = if s.built = true then firstError cs else some .notBuilt := by
  rw [firstError_cons]
  cases s.built <;> rfl

theorem firstError_mkprvChecks (s : State) : firstError (mkprvChecks s) =
    if s.built = true then
      if InMem s s.dstAddr (8 + 32 * s.depth.toNat) then if s.leafCnt.toNat ≤ s.auxVal then some .notFound else none
      else some .addrRange
    else some .notBuilt := by
  rw [mkprvChecks, firstError_not_built, s.firstError_checkRegion, firstError_decide, firstError_nil, proofSize]

/-- What the write of a proof at DST changes, after `k` draws (R413, R414). -/
theorem State.writeProof_effect {s t : State} {k i : Nat} (ht : t = ((s.draw k).writeProof i).succeed) :
    t = { s with mem := t.mem, result := BitVec.ofNat 64 (8 + 32 * s.depth.toNat), code := .ok, draws := s.draws + k } ∧
      Stores s.mem t.mem s.dstAddr (s.proofOf i) := by
  subst ht
  refine ⟨State.ext_iff.mpr ?_, ?_⟩
  · simp [State.writeProof, proofSize]
  · rw [State.succeed_mem, State.writeProof_mem]
    exact s.mem.stores_write s.dstAddr (s.proofOf i)

/-- Settles O43: the checks decide between the errors and one write of the proof. -/
theorem mkprvRule : Obligations.MkprvRule := by
  refine ⟨decode_encode .mkprv, fun s hbuilt => ?_, fun s hbuilt hdst => ?_, fun s hbuilt hdst hindex => ?_,
    fun s hbuilt hdst hindex => ?_⟩
  all_goals have hchecks := firstError_mkprvChecks s
  · exact State.next_perform_of_some (hchecks.trans (if_neg (ne_true_of_eq_false hbuilt))) _
  · exact State.next_perform_of_some (hchecks.trans ((if_pos hbuilt).trans (if_neg hdst))) _
  · have hfail := hchecks.trans ((if_pos hbuilt).trans ((if_pos hdst).trans (if_pos hindex)))
    exact State.next_perform_of_some hfail _
  · have hpass := hchecks.trans ((if_pos hbuilt).trans ((if_pos hdst).trans (if_neg hindex.not_ge)))
    exact ⟨_, State.next_perform_of_none hpass _, State.writeProof_effect (k := 0) rfl⟩

/-! ### Checks before and after the reads of a command -/

theorem State.guarded_of_none {s : State} {cs : List (Bool × Code)} (h : firstError cs = none) (k : State → State) :
    s.guarded cs k = k s := by
  rw [State.guarded, h]

theorem State.guarded_of_some {s : State} {cs : List (Bool × Code)} {e : Code} (h : firstError cs = some e)
    (k : State → State) : s.guarded cs k = s.raise e := by
  rw [State.guarded, h]

/-! ### MKPRH -/

theorem firstError_mkprhChecks (s : State) : firstError (mkprhChecks s) =
    if s.built = true then
      if InMem s s.srcAddr 32 ∧ InMem s s.dstAddr (8 + 32 * s.depth.toNat) then none else some .addrRange
    else some .notBuilt := by
  rw [mkprhChecks, firstError_not_built, s.firstError_regions, proofSize]

theorem State.mem_leafMatches {s : State} {h : Words8} {i : Nat} :
    i ∈ s.leafMatches h ↔ i < s.leafCnt.toNat ∧ s.leafAt i = h := by
  simp [State.leafMatches]

theorem State.leafMatches_eq_nil {s : State} {h : Words8} (hnone : ∀ i < s.leafCnt.toNat, s.leafAt i ≠ h) :
    s.leafMatches h = [] :=
  List.eq_nil_iff_forall_not_mem.mpr fun i hi => by
    obtain ⟨hlt, hleaf⟩ := State.mem_leafMatches.mp hi
    exact hnone i hlt hleaf

/-- The leaves are searched once each, so that a match alone among them is listed once. -/
theorem State.leafMatches_eq_singleton {s : State} {h : Words8} {i : Nat} (hi : i < s.leafCnt.toNat)
    (hleaf : s.leafAt i = h) (hunique : ∀ j < s.leafCnt.toNat, s.leafAt j = h → j = i) : s.leafMatches h = [i] := by
  have hnodup : (s.leafMatches h).Nodup := List.nodup_range.filter _
  refine List.perm_singleton.mp ((List.perm_ext_iff_of_nodup hnodup (List.nodup_singleton i)).mpr fun j => ?_)
  rw [State.mem_leafMatches, List.mem_singleton]
  exact ⟨fun ⟨hj, hleafj⟩ => hunique j hj hleafj, fun hji => hji ▸ ⟨hi, hleaf⟩⟩

theorem State.leafMatches_eq_cons_cons {s : State} {h : Words8} {i j : Nat} (hi : i ∈ s.leafMatches h)
    (hj : j ∈ s.leafMatches h) (hne : i ≠ j) : ∃ a b l, s.leafMatches h = a :: b :: l := by
  generalize s.leafMatches h = ms at hi hj ⊢
  match ms, hi, hj with
  | [a], hi, hj => exact absurd ((List.mem_singleton.mp hi).trans (List.mem_singleton.mp hj).symm) hne
  | a :: b :: l, _, _ => exact ⟨a, b, l, rfl⟩

section search
variable {s : State} (hpass : firstError (mkprhChecks s) = none)
include hpass

/-! MKPRH once its checks pass, by how many leaves match (R414). -/

theorem exec_mkprh_of_no_match (h : s.leafMatches (unserialize (s.readBytes s.srcAddr 32)) = []) :
    exec .mkprh s = .next ((s.draw 32).raise .notFound) := by
  simp only [exec, execMkprh, State.guarded_of_none hpass, h]

theorem exec_mkprh_of_one_match {i : Nat}
    (h : s.leafMatches (unserialize (s.readBytes s.srcAddr 32)) = [i]) :
    exec .mkprh s = .next ((s.draw 32).writeProof i).succeed := by
  simp only [exec, execMkprh, State.guarded_of_none hpass, h]

theorem exec_mkprh_of_two_matches {i j : Nat} {l : List Nat}
    (h : s.leafMatches (unserialize (s.readBytes s.srcAddr 32)) = i :: j :: l) :
    exec .mkprh s = .next ((s.draw 32).raise .duplicateLeaf) := by
  simp only [exec, execMkprh, State.guarded_of_none hpass, h]

end search

/-- Settles O44: the checks decide between the first errors and the search, and the leaves that match between the others
and one write of the proof. -/
theorem mkprhRule : Obligations.MkprhRule := by
  refine ⟨decode_encode .mkprh, fun s hbuilt => ?_, fun s hbuilt hregion => ?_, fun s h hbuilt hsrc hdst hh => ?_⟩
  all_goals have hchecks := firstError_mkprhChecks s
  · exact congrArg _ (State.guarded_of_some (hchecks.trans (if_neg (ne_true_of_eq_false hbuilt))) _)
  · have hfail := hchecks.trans ((if_pos hbuilt).trans (if_neg (not_and_or.mpr hregion)))
    exact congrArg _ (State.guarded_of_some hfail _)
  · subst hh
    have hpass := hchecks.trans ((if_pos hbuilt).trans (if_pos ⟨hsrc, hdst⟩))
    refine ⟨fun hnone => ?_, fun i j hij hj hleafi hleafj => ?_, fun i hi hleaf hunique => ?_⟩
    · exact exec_mkprh_of_no_match hpass (State.leafMatches_eq_nil hnone)
    · have hmemi := State.mem_leafMatches.mpr ⟨hij.trans hj, hleafi⟩
      have hmemj := State.mem_leafMatches.mpr ⟨hj, hleafj⟩
      obtain ⟨a, b, l, hmatches⟩ := State.leafMatches_eq_cons_cons hmemi hmemj hij.ne
      exact exec_mkprh_of_two_matches hpass hmatches
    · have hdone := exec_mkprh_of_one_match hpass (State.leafMatches_eq_singleton hi hleaf hunique)
      exact ⟨_, hdone, State.writeProof_effect rfl⟩

/-! ### MKVFY -/

theorem firstError_mkvfyChecks (s : State) : firstError (mkvfyChecks s) =
    if InMem s s.srcAddr 32 ∧ InMem s s.ptr2Addr 8 ∧ InMem s s.dstAddr 32 then none else some .addrRange := by
  rw [mkvfyChecks, s.firstError_checkRegion, s.firstError_regions, ← ite_and]

theorem firstError_mkvfyHeaderChecks (s : State) (k : Nat) : firstError (mkvfyHeaderChecks s k) =
    if 32 < k then some .badProof else if InMem s (s.ptr2Addr + 8) (32 * k) then none else some .addrRange := by
  rw [mkvfyHeaderChecks, firstError_decide, s.firstError_checkRegion, firstError_nil]

/-- What MKVFY is asked to verify: the hash at SRC, the proof at PTR2 and the root at DST (R406, R420). -/
def State.proofHolds (s : State) : Bool :=
  verifyProof (unserialize (s.readBytes s.srcAddr 32)) s.headerIndex s.headerDepth (s.proofAt s.headerDepth)
    (unserialize ((s.draw 40).readBytes s.dstAddr 32))

/-- MKVFY once its fixed regions are in MEM: the checks on the header's K, then the verdict (R420). -/
theorem exec_mkvfy_of_pass {s : State} (hpass : firstError (mkvfyChecks s) = none) :
    exec .mkvfy s = .next ((s.draw 72).guarded (mkvfyHeaderChecks s s.headerDepth) fun t =>
      (((t.draw (32 * s.headerDepth)).setResult (if s.proofHolds then 1 else 0)).useDatapath).succeed) :=
  congrArg Host.Outcome.next (State.guarded_of_none hpass _)

/-- What a datapath command that only gives `n` in RESULT changes, after `k` draws (43_compression.md R314). -/
theorem State.datapathResult_effect {s t : State} {k n : Nat}
    (ht : t = ((s.draw k).setResult n).useDatapath.succeed) :
    t = { s with result := t.result, cfact := false, rnd := 0, code := .ok,
                 w := t.w, w1 := t.w1, wk := t.wk, draws := t.draws } ∧ t.result = BitVec.ofNat 64 n := by
  subst ht
  exact ⟨State.ext_iff.mpr (by simp), rfl⟩

/-- Settles O45: the fixed regions decide on the reads, and the header's K then between the errors and the verdict. -/
theorem mkvfyRule : Obligations.MkvfyRule := by
  refine ⟨decode_encode .mkvfy, fun s hregion => ?_, fun s hsrc hptr2 hdst => ?_⟩
  all_goals have hfixed := firstError_mkvfyChecks s
  · have hregion : ¬ (InMem s s.srcAddr 32 ∧ InMem s s.ptr2Addr 8 ∧ InMem s s.dstAddr 32) := by
      rwa [not_and_or, not_and_or]
    exact congrArg _ (State.guarded_of_some (hfixed.trans (if_neg hregion)) _)
  · rw [exec_mkvfy_of_pass (hfixed.trans (if_pos ⟨hsrc, hptr2, hdst⟩))]
    have hheader := firstError_mkvfyHeaderChecks s s.headerDepth
    refine ⟨fun hk => ?_, fun hk hsibs => ?_, fun hk hsibs => ?_⟩
    · exact congrArg _ (State.guarded_of_some (hheader.trans (if_pos hk)) _)
    · have hfail := hheader.trans ((if_neg hk.not_gt).trans (if_neg hsibs))
      exact congrArg _ (State.guarded_of_some hfail _)
    · have hpass := hheader.trans ((if_neg hk.not_gt).trans (if_pos hsibs))
      obtain ⟨hframe, hresult⟩ := State.datapathResult_effect (s := s.draw 72) rfl
      refine ⟨_, congrArg _ (State.guarded_of_none hpass _), hframe, hresult.trans ?_⟩
      exact apply_ite (BitVec.ofNat 64) ..

end Sys2Proof.Machine
end

section
/-! ### Proofs of 46_length_extension.md: the forged digest and LEFG -/

namespace Sys2Proof.Machine

/-! ### The forged digest -/

/-- Whole blocks ahead of a message do not change its zero count (R250). -/
theorem padZeros_padLen_add (l n : Nat) : padZeros (padLen l + n) = padZeros n := by
  unfold padZeros padLen
  omega

theorem padMsg_length (m : List Byte) : (padMsg m).length = padLen m.length := padWith_length m m.length

/-- The byte length of pad(m) || S is T (R450). -/
theorem padMsg_append_length (m suffix : List Byte) :
    (padMsg m ++ suffix).length = forgeLen m.length suffix.length := by
  rw [List.length_append, padMsg_length, forgeLen]

/-- pad(pad(m) || S) = pad(m) || Pad(S, T): second step of the proof of R451. -/
theorem padMsg_padMsg_append (m suffix : List Byte) :
    padMsg (padMsg m ++ suffix) = padMsg m ++ padWith suffix (forgeLen m.length suffix.length) := by
  rw [padMsg, padWith, padMsg_append_length, forgeLen, padZeros_padLen_add, List.append_assoc, padWith]

/-- Hashing pad(m) || S resumes from the HashState of m (R451). -/
theorem hashState_padMsg_append (m suffix : List Byte) :
    hashState (padMsg m ++ suffix) = forgeState (sm3 m) m.length suffix := by
  have hblocks : (padMsg m).length % 64 = 0 := by rw [padMsg_length, padLen_mod]
  rw [hashState, padMsg_padMsg_append, foldOfConcatenation iv _ _ hblocks, forgeState, sm3, unserialize_serialize,
    hashState]

/-- Settles O57: m || PadTail(len(m)) is pad(m), and hashing on from there is what Forge does. -/
theorem lengthExtensionCorrect : Obligations.LengthExtensionCorrect := by
  intro m suffix _
  have hpad : m ++ padTail m.length = padMsg m := rfl
  rw [hpad, forge, padMsg_append_length, ← hashState_padMsg_append, sm3]

/-! ### LEFG -/

theorem firstError_lefgChecks (s : State) : firstError (lefgChecks s) =
    if 2 ^ 61 ≤ forgeLen s.auxVal s.lenVal then some .lengthOverflow
    else if InMem s s.ptr2Addr 32 ∧ InMem s s.srcAddr s.lenVal ∧ InMem s s.dstAddr 32 then none
    else some .addrRange := by
  rw [lefgChecks, firstError_lengthOverflows, s.firstError_checkRegion, s.firstError_regions, ← ite_and]

/-- What LEFG forges: the digest at PTR2, the length in AUX and the suffix at SRC, read after the digest (R452). -/
def State.forgedDigest (s : State) : List Byte :=
  serialize (forgeState (s.readBytes s.ptr2Addr 32) s.auxVal ((s.draw 32).readBytes s.srcAddr s.lenVal))

/-- The suffix has LEN bytes, so that it is padded for the length T of R452. -/
theorem State.forgedDigest_eq (s : State) : s.forgedDigest =
    serialize (foldBlocks (unserialize (s.readBytes s.ptr2Addr 32))
      (padWith ((s.draw 32).readBytes s.srcAddr s.lenVal) (forgeLen s.auxVal s.lenVal))) := by
  rw [State.forgedDigest, forgeState, State.readBytes_length]

/-- LEFG when its checks pass: one write of the forged digest, and T in RESULT (R452). -/
theorem exec_lefg_of_pass {s : State} (hpass : firstError (lefgChecks s) = none) :
    exec .lefg s = .next ((((s.draw (32 + s.lenVal)).writeBytes s.dstAddr s.forgedDigest).setResult
      (forgeLen s.auxVal s.lenVal)).useDatapath).succeed := by
  have hdone : exec .lefg s = _ := State.next_perform_of_none hpass _
  rw [hdone, forge, State.readBytes_length, State.forgedDigest]

/-- Settles O46: the checks decide between the errors and one write of the forged digest. -/
theorem lefgRule : Obligations.LefgRule := by
  refine ⟨decode_encode .lefg, fun s hover => ?_, fun s hfits hregion => ?_, fun s hfits hptr2 hsrc hdst => ?_⟩
  all_goals have hchecks := firstError_lefgChecks s
  · exact State.next_perform_of_some (hchecks.trans (if_pos hover)) _
  · have hregion : ¬ (InMem s s.ptr2Addr 32 ∧ InMem s s.srcAddr s.lenVal ∧ InMem s s.dstAddr 32) := by
      rwa [not_and_or, not_and_or]
    exact State.next_perform_of_some (hchecks.trans ((if_neg hfits.not_ge).trans (if_neg hregion))) _
  · have hpass := hchecks.trans ((if_neg hfits.not_ge).trans (if_pos ⟨hptr2, hsrc, hdst⟩))
    obtain ⟨hframe, hstores⟩ := State.datapathWrite_effect (s := s) rfl
    exact ⟨_, exec_lefg_of_pass hpass, hframe, s.forgedDigest_eq ▸ hstores⟩

end Sys2Proof.Machine
end

section
/-! ### Proofs of 60_exceptions.md: every command completes, and its errors are precise -/

namespace Sys2Proof.Machine

/-- Settles O5: a command always gives a next state, and `Completes` says how it can end there. -/
theorem everyCommandCompletes : Obligations.EveryCommandCompletes := by
  intro i s
  obtain ⟨t, h⟩ := exec_next i s
  refine ⟨t, h, ?_⟩
  rcases exec_completes h with hok | ⟨n, e, he, rfl⟩
  · exact .inl hok
  · exact .inr ⟨he, rfl⟩

/-- A command that does not succeed raises its code on the state it found, some draws later (60_exceptions.md R503). -/
theorem exec_eq_raise {i : Instr} {s t : State} (h : exec i s = .next t) (hcode : t.code ≠ .ok) :
    ∃ n, t = (s.draw n).raise t.code := by
  rcases exec_completes h with ⟨hok, -⟩ | ⟨n, e, -, rfl⟩
  · exact absurd hok hcode
  · exact ⟨n, rfl⟩

/-- The step of a CMD write leaves the word in CMD: it is stored first, and running it, valid or not, keeps CMD
(10_state.md R53). -/
theorem step_cmd_of_cmdWrite {s t : State} {c : Word} {rest : List HostOp}
    (hq : s.hostQueue = .mmioWrite 32 0x004 c :: rest) (h : step s = .next t) : t.cmd = c := by
  simp only [step, hq, hostStep_writeCmd] at h
  obtain ⟨u, hu, hcmd⟩ := runCommand_next c { s with hostQueue := rest, cmd := c }
  obtain rfl : u = t := Host.Outcome.next.inj (hu.symm.trans h)
  exact hcmd

/-- Settles O6: an error is `raise` on the state found but for the draws, and a CMD write stores its word. -/
theorem errorsArePrecise : Obligations.ErrorsArePrecise := by
  refine ⟨fun i s t h hcode => ?_, fun _ _ _ _ => step_cmd_of_cmdWrite⟩
  obtain ⟨n, ht⟩ := exec_eq_raise h hcode
  rw [ht]
  rfl

end Sys2Proof.Machine
end

section
/-! ### Proofs of 70_reset_and_hazards.md: the state after reset -/

namespace Sys2Proof

/-- A parameter taken from any seed is in the range of 00_scope.md R7. -/
theorem Config.params_ok : Config.params.ok = true := by
  refine decide_eq_true ?_
  simp only [Config.params, Config.memBytes, Config.maxLeaves]
  omega

/-- Offset 0 is ID's alone, and V's offsets are those from 0x040 up to 0x060 (10_state.md R71). -/
theorem Reg.ofOffset_ne_id_and_ne_v {off : Nat} (h : off < 4096) (ha : off % 4 = 0) (hzero : off ≠ 0)
    (hv : off < 0x040 ∨ 0x060 ≤ off) : Reg.ofOffset off ≠ .id ∧ ∀ i, Reg.ofOffset off ≠ .v i := by
  obtain ⟨-, -, -, -, -, hmap⟩ := Machine.registerMap
  have hoffset := (hmap off h ha).2
  refine ⟨fun hr => ?_, fun i hr => ?_⟩
  all_goals
    rw [hr] at hoffset
    have := hoffset (by simp)
    simp only [Reg.offset] at this
    omega

end Sys2Proof

namespace Sys2Proof.Machine

/-! ### The reset state meets the invariant -/

/-- Nothing is written in MEM. -/
theorem State.reset_memInv : State.reset.MemInv := ⟨rfl, List.forall_mem_nil _⟩

/-- No leaf is in the store, so there is no slot below LEAFCNT. -/
theorem State.reset_leafInv : State.reset.LeafInv :=
  ⟨rfl, Nat.zero_le _, List.forall_mem_nil _, fun i h => absurd h i.not_lt_zero⟩

/-- Settles O14: no round sequence is open and no tree is built, and the stores are empty. -/
theorem resetMeetsInvariant : Obligations.ResetMeetsInvariant :=
  ⟨Config.params_ok, State.reset_memInv, State.reset_leafInv, State.roundInv_of_closed (Nat.zero_le 64) rfl,
    State.treeInv_of_not_built rfl⟩

/-! ### What the registers read after reset -/

/-- Every register but ID and V is 0 after reset (70_reset_and_hazards.md R601). -/
theorem State.readReg_resetEngine_eq_zero (s : State) {r : Reg} (hid : r ≠ .id) (hv : ∀ i, r ≠ .v i) :
    s.resetEngine.readReg r = 0 := by
  cases r with
  | id => exact absurd rfl hid
  | v i => exact absurd rfl (hv i)
  | wk i | root i => fin_cases i <;> rfl
  | w j | w1 j => exact Vector.getElem_replicate _
  | status => exact (by decide : State.reset.statusWord = 0)
  | auxHi | resultHi => exact (by decide : (0 : BitVec 64).extractLsb' 32 32 = 0)
  | _ => rfl

/-- Settles O19: outside V, offset 0 names ID and every other offset a register that reads 0. -/
theorem resetValues : Obligations.ResetValues := by
  refine ⟨fun s => ⟨s.resetEngine, rfl, rfl, rfl, rfl, rfl, rfl, fun off h ha hv => ?_⟩, rfl⟩
  by_cases hzero : off = 0
  · rw [if_pos hzero, hzero]
    rfl
  · obtain ⟨hid, hnotV⟩ := Reg.ofOffset_ne_id_and_ne_v h ha hzero hv
    rw [if_neg hzero, s.readReg_resetEngine_eq_zero hid hnotV]

end Sys2Proof.Machine
end
